-- ==== Sys2Proof/Word.lean ====
section
/-! DEFINITION. The widths of the block's values (R5, R6): every value is an unsigned bit vector, bit 0 the least significant. -/

namespace Sys2Proof

/-- A 16-bit port address, range base or don't-care mask (`BASE_W`, `MASK_W`, `PORT_W` of R5; R10, R11). -/
abbrev Port := BitVec 16

/-- The 32-bit word of an LPC decode-window register (`WORD_W` of R5; R40, R41). -/
abbrev LpcWord := BitVec 32

/-- One byte of the ISA triple, or one ISA-bridge register (R42). -/
abbrev Byte := BitVec 8

/-- The 51-bit command word (`CMD_W` of R5; R37). -/
abbrev Command := BitVec 51

/-- The scan address `P`: 17 bits, so that it can hold `0x10000` (R14). -/
abbrev ScanAddr := BitVec 17

/-- A 32-bit PCI configuration address, as written to `0xCF8` (R22). -/
abbrev CfgAddr := BitVec 32

end Sys2Proof
end

