-- ==== Sys2Proof/Machine/Formats.lean ====
section
/-! DEFINITION. The agents (R8) and the data the block and its host exchange: ranges, runs, response records (R43, R44), the host's writes (R7) and the host's actions (R50, R76 to R79, R105). -/

namespace Sys2Proof

/-- One value for each of the four decode windows of a chip (R17, R28). -/
structure PerWindow (α : Type) where
  w0 : α
  w1 : α
  w2 : α
  w3 : α
deriving DecidableEq, Repr

/-- The value of window `i`. -/
def PerWindow.get {α : Type} (v : PerWindow α) (i : Fin 4) : α :=
  match i with
  | 0 => v.w0
  | 1 => v.w1
  | 2 => v.w2
  | 3 => v.w3

/-- The value of window `i` replaced. -/
def PerWindow.set {α : Type} (v : PerWindow α) (i : Fin 4) (x : α) : PerWindow α :=
  match i with
  | 0 => { v with w0 := x }
  | 1 => { v with w1 := x }
  | 2 => { v with w2 := x }
  | 3 => { v with w3 := x }

end Sys2Proof

namespace Sys2Proof.Machine

/-- The agents: there are exactly two (R8). -/
inductive Agent
  /-- The block executes one operation at a time, from a command to its last response record. -/
  | block
  /-- The host is the one program that issues commands, reads responses and performs all writes. -/
  | host
deriving DecidableEq, Repr

/-- A `DecodeRange`, the pair `(base, mask)` (R9, R10, R11). -/
structure DecodeRange where
  base : Port
  mask : Port
deriving DecidableEq, Repr

/-- A `PortRun`: every address from `startPort` to `endPort` inclusive (R43). A single address is a legal run (C10). -/
structure Run where
  startPort : Port
  endPort : Port
deriving DecidableEq, Repr

/-- One record of the response port (R44). -/
inductive Record
  /-- kind 0, sent by ENCLPC: the LPC word. -/
  | word (w : LpcWord)
  /-- kind 1, sent by DECLPC: the mask and base results. -/
  | range (mask base : Port)
  /-- kind 2, sent by ENCISA: the three bytes in the source's order. -/
  | triple (bl bh mk : Byte)
  /-- kind 3, sent by MATCH: whether the port is a match. -/
  | hit (h : Bool)
  /-- kind 4, sent by EXPAND once per run. -/
  | run (r : Run)
  /-- kind 5, sent by EXPAND after its last run. -/
  | done
deriving DecidableEq, Repr

/-- Which of the three bridge registers of a window a byte goes to (R28, R42). -/
inductive IsaByte
  /-- the mask byte `MK`, at `ISAGenericDecode[i] + 0`. -/
  | mask
  /-- base-low `BL`, at `ISAGenericDecode[i] + 1`. -/
  | low
  /-- base-high `BH`, at `ISAGenericDecode[i] + 2`. -/
  | high
deriving DecidableEq, Repr

/-- The three 8-bit ISA-bridge registers of one decode window (R17, R28). -/
structure IsaWindow where
  maskByte : Byte
  baseLow : Byte
  baseHigh : Byte
deriving DecidableEq, Repr

/-- One write of the host, an indivisible event (R7, R26). -/
inductive HostWrite
  /-- `CfgWrite32(addr, v)`. -/
  | cfg32 (addr : CfgAddr) (v : LpcWord)
  /-- `IdxWrite8(index, v)`. -/
  | idx8 (index v : Byte)
deriving DecidableEq, Repr

/-- What the operator is shown for one range: the LPC word and the run text (R79). The layout of the line is not in the source (N7; log 17). -/
structure Shown where
  word : LpcWord
  text : List Char
deriving DecidableEq, Repr

/-- The variables of the host's pseudocode (R76), filled from the records the host takes. -/
structure HostVars where
  /-- `word` of R76: the last WORD taken. -/
  word : LpcWord
  /-- the last RANGE taken. -/
  range : DecodeRange
  /-- `BL` of R76: first byte of the last TRIPLE taken. -/
  baseLow : Byte
  /-- `BH` of R76: its second byte. -/
  baseHigh : Byte
  /-- `MK` of R76: its third byte. -/
  maskByte : Byte
  /-- the last HIT taken. -/
  hit : Bool
  /-- RUN records taken since the last DONE. -/
  gathering : List Run
  /-- `runs` of R76: the last complete run list, ended by its DONE (R67). -/
  runs : List Run
deriving DecidableEq, Repr

/-- One action of the host (R8, R105). -/
inductive HostAction
  /-- Present a command at the command port (R38). -/
  | present (c : Command)
  /-- Take one record from the response port (R44). -/
  | take
  /-- Take records up to and including DONE (R67, R105). -/
  | takeToDone
  /-- Have the reset input asserted `after` steps from now (R94, R105; log 6). -/
  | reset (after : Nat)
  /-- `SHOW base, mask` (R50, R79). -/
  | showRange (base mask : Port)
  /-- Show the word and the run text to the operator (R76 (a)). -/
  | display
  /-- `CfgWrite32(LPCGenericDecode[i], word)` (R76 (b)). -/
  | writeLpc (i : Fin 4)
  /-- One of the three `IdxWrite8` of R76 (c). -/
  | writeIsa (i : Fin 4) (which : IsaByte)
  /-- `PROGW i, base, mask` (R50, R76). -/
  | progw (i : Nat) (base mask : Port)
  /-- Program the first `numRanges` windows, window `j` with range `j`; `none` is the default number (R5, R77). -/
  | programWindows (numRanges : Option Nat) (ranges : PerWindow DecodeRange)
deriving DecidableEq, Repr

/-- The kind number of a record (R44). -/
def Record.kind : Record → BitVec 3
  | .word _ => 0#3
  | .range _ _ => 1#3
  | .triple _ _ _ => 2#3
  | .hit _ => 3#3
  | .run _ => 4#3
  | .done => 5#3

/-- The 32 data bits of a record (R44). -/
def Record.data : Record → BitVec 32
  | .word w => w
  | .range mask base => mask ++ base
  | .triple bl bh mk => 0#8 ++ mk ++ bh ++ bl
  | .hit h => (BitVec.ofBool h).setWidth 32
  | .run r => r.endPort ++ r.startPort
  | .done => 0#32

/-- A record as it stands on the response port: `kind` above `data`, 35 bits (R44, R48). -/
def Record.bits (r : Record) : BitVec 35 := r.kind ++ r.data

/-- Read a record back from its 35 bits. Kinds 6 and 7 are never sent (R44, R47), nor are data bits the kind keeps 0. -/
def Record.ofBits (v : BitVec 35) : Option Record :=
  let d := v.extractLsb' 0 32
  match (v.extractLsb' 32 3).toNat with
  | 0 => some (.word d)
  | 1 => some (.range (d.extractLsb' 16 16) (d.extractLsb' 0 16))
  | 2 =>
    if d.extractLsb' 24 8 = 0#8 then
      some (.triple (d.extractLsb' 0 8) (d.extractLsb' 8 8) (d.extractLsb' 16 8))
    else none
  | 3 => if d.extractLsb' 1 31 = 0#31 then some (.hit (d.getLsbD 0)) else none
  | 4 => some (.run ⟨d.extractLsb' 0 16, d.extractLsb' 16 16⟩)
  | 5 => if d = 0#32 then some .done else none
  | _ => none

/-- The offset of a register within a window's three bridge registers (R28, R42). -/
def IsaByte.offset : IsaByte → Byte
  | .mask => 0#8
  | .low => 1#8
  | .high => 2#8

end Sys2Proof.Machine
end

