-- ==== Sys2Proof/Config.lean ====
section
/-! DEFINITION. The parameters of the model: the constants of the block in one configuration record (R5, D19, U1) with the values this hardware takes, and the host's program (R20). -/

namespace Sys2Proof

/-- The named constants of R5. A law that holds for any values is stated over an arbitrary `Config`. -/
structure Config where
  /-- `BASE_W`: the width of `base`. The five widths are those of the types of Word.lean (`Laws.widths_are_printed`). -/
  baseW : Nat
  /-- `MASK_W`: the width of `mask`. -/
  maskW : Nat
  /-- `PORT_W`: the width of a port address. -/
  portW : Nat
  /-- `WORD_W`: the width of the LPC word. -/
  wordW : Nat
  /-- `CMD_W`: the width of the command word. -/
  cmdW : Nat
  /-- `ENC_BASE_AND`: the base bits ENCLPC keeps. -/
  encBaseAnd : Port
  /-- `ENC_MASK_AND`: the mask bits ENCLPC keeps. -/
  encMaskAnd : Port
  /-- `ENC_MASK_SHL`: how far ENCLPC shifts them. -/
  encMaskShl : Nat
  /-- `ENC_ENABLE`: the always-on enable bit. -/
  encEnable : LpcWord
  /-- `DEC_BASE_AND`: the base bits DECLPC takes. -/
  decBaseAnd : Port
  /-- `DEC_MASK_AND`: the word bits DECLPC takes as the mask. -/
  decMaskAnd : LpcWord
  /-- `DEC_MASK_SHR`: how far DECLPC shifts them. -/
  decMaskShr : Nat
  /-- `ISA_FORCE`: the mask-byte bits ENCISA forces to 1. -/
  isaForce : Byte
  /-- `GRAN`: the forced don't-care bits of the expander. -/
  gran : Port
  /-- `SCAN_LO`: the first address EXPAND tests. -/
  scanLo : Port
  /-- `SCAN_HI`: the last address EXPAND tests. -/
  scanHi : Port
  /-- `NWIN`: decode windows per chip. -/
  nwin : Nat
  /-- The least `numRanges` (R77). -/
  numRangesMin : Nat
  /-- The greatest `numRanges` (R77). -/
  numRangesMax : Nat
  /-- The default `numRanges` (R77). -/
  numRangesDefault : Nat
  /-- `LPCGenericDecode[0..3]`: the configuration address of each window register (R28). -/
  lpcGenericDecode : PerWindow CfgAddr
  /-- `ISAGenericDecode[0..3]`: the bridge index of each window's mask byte (R28). -/
  isaGenericDecode : PerWindow Byte
  /-- `CFG_ADDR_PORT`: the port of the configuration-address register, by which the host makes `CfgWrite32` (R7, R27). -/
  cfgAddrPort : Port
  /-- `CFG_DATA_PORTS`: the first of the configuration data ports. -/
  cfgDataPortFirst : Port
  /-- `CFG_DATA_PORTS`: the last of them. -/
  cfgDataPortLast : Port
  /-- `SIO_INDEX_PORT`: the index port, by which the host makes `IdxWrite8` (R7, R27). -/
  sioIndexPort : Port
  /-- `SIO_DATA_PORT`: the data port beside it. -/
  sioDataPort : Port
  /-- `MAX_RUNS`: the most runs one EXPAND emits (R70). -/
  maxRuns : Nat
deriving DecidableEq, Repr

/-- The printed values of R5.
UNVERIFIED: the requester calls the literals unaudited (U1; log 14); the order of the two tables is the spec's decision D17 (log 15). -/
def Config.printed : Config where
  baseW := 16
  maskW := 16
  portW := 16
  wordW := 32
  cmdW := 51
  encBaseAnd := 0x3FFF#16
  encMaskAnd := 0x3F#16
  encMaskShl := 16
  encEnable := 0x00000001#32
  decBaseAnd := 0xFFFC#16
  decMaskAnd := 0x00FC0000#32
  decMaskShr := 16
  isaForce := 0x03#8
  gran := 0x0003#16
  scanLo := 0x0000#16
  scanHi := 0xFFFF#16
  nwin := 4
  numRangesMin := 1
  numRangesMax := 4
  numRangesDefault := 4
  lpcGenericDecode := ⟨0x8000F884#32, 0x8000F888#32, 0x8000F88C#32, 0x8000F890#32⟩
  isaGenericDecode := ⟨0x20#8, 0x23#8, 0x30#8, 0x33#8⟩
  cfgAddrPort := 0xCF8#16
  cfgDataPortFirst := 0xCFC#16
  cfgDataPortLast := 0xCFF#16
  sioIndexPort := 0x4E#16
  sioDataPort := 0x4F#16
  maxRuns := 8192

/-- The host's program: a parameter of the model, not a field of its state (R20).
It has no body, so nothing can be proved of what it is: the machine's statements hold for whatever program the host runs (log 1). -/
opaque Config.hostProgram : List Machine.HostAction

end Sys2Proof
end

