-- ==== Sys2Proof/Machine/Operands.lean ====
section
/-! DEFINITION. The fields of the command word (R37) and how each operand is cut or widened (R45). -/

namespace Sys2Proof.Machine

/-! ### Fields of the command word (R37) -/

/-- `op = CMD[50:48]`. -/
def opField (c : Command) : BitVec 3 := c.extractLsb' 48 3

/-- `p = CMD[47:32]`, used by format P alone. -/
def pField (c : Command) : Port := c.extractLsb' 32 16

/-- `mask = CMD[31:16]` of formats R and P. -/
def maskField (c : Command) : Port := c.extractLsb' 16 16

/-- `base = CMD[15:0]` of formats R and P. -/
def baseField (c : Command) : Port := c.extractLsb' 0 16

/-- `word = CMD[31:0]` of format W. -/
def wordField (c : Command) : LpcWord := c.extractLsb' 0 32

/-- A command from its four fields (R37). -/
def mkCommand (op : BitVec 3) (p mask base : Port) : Command := op ++ p ++ mask ++ base

/-! ### Operand assembly (R45) -/

/-- The cut of a software integer to a 16-bit operand, before it is placed in the command (R10, R11, D2). -/
def cutToPort (n : Nat) : Port := BitVec.ofNat 16 n

/-- ENCLPC's `base` operand: `base & ENC_BASE_AND`, in its place in the word (R45, R52). -/
def encLpcBase (k : Config) (base : Port) : LpcWord := (base &&& k.encBaseAnd).setWidth 32

/-- ENCLPC's `mask` operand: `mask & ENC_MASK_AND`, then shifted left (R45, R52). -/
def encLpcMask (k : Config) (mask : Port) : LpcWord :=
  (mask &&& k.encMaskAnd).setWidth 32 <<< k.encMaskShl

/-- DECLPC's `base` result: `word[15:0] & DEC_BASE_AND` (R45, R53). -/
def decLpcBase (k : Config) (word : LpcWord) : Port := word.setWidth 16 &&& k.decBaseAnd

/-- DECLPC's `mask` result: `(word & DEC_MASK_AND) >> DEC_MASK_SHR`, 16 bits (R45, R53, D8). -/
def decLpcMask (k : Config) (word : LpcWord) : Port :=
  ((word &&& k.decMaskAnd) >>> k.decMaskShr).setWidth 16

/-- ENCISA's first byte `BL = base & 0xFF` (R42, R54). -/
def isaLow (base : Port) : Byte := base.setWidth 8

/-- ENCISA's second byte `BH = (base >> 8) & 0xFF` (R42, R54). -/
def isaHigh (base : Port) : Byte := (base >>> 8).setWidth 8

/-- ENCISA's third byte `MK = (mask | ISA_FORCE) & 0xFF` (R42, R54, D7). -/
def isaMask (k : Config) (mask : Port) : Byte := mask.setWidth 8 ||| k.isaForce

/-- The effective mask `em = mask | GRAN` of MATCH and EXPAND (R62). -/
def effMask (k : Config) (mask : Port) : Port := mask ||| k.gran

end Sys2Proof.Machine
end

