-- ==== Sys2Proof/Machine/State.lean ====
section
/-! DEFINITION. The state: the block's registers and ports (R13 to R16, R37, R38, R44), the host (R8, R20) and the platform registers the host writes (R17, R28, R80). -/

namespace Sys2Proof.Machine

/-- The reasons the machine could stop with a fault: there is none. The block raises nothing (R82) and has no fault mechanism (U3); nobody raises a fault, which is safe. -/
inductive Fault
deriving DecidableEq, Repr

/-- The reasons a step is refused. -/
inductive Refusal
  /-- Raised by `exec`'s arm of an operation that has no meaning yet (no arm does). Safe: nothing can be proved past it. -/
  | notModelled (mnemonic : String)
  /-- Raised when a command with a reserved `op` (5, 6, 7) is accepted (R46, R83, D5). Safe: the block would stay silent and a host that waits would wait for ever. -/
  | reservedOp (op : BitVec 3)
  /-- Raised by `PROGW` with a window index outside 0 to 3 (R76, D26). Safe: there is no such window. -/
  | noSuchWindow (i : Nat)
  /-- Raised when fewer than 1 or more than 4 ranges are to be programmed (R77; log 12). Safe: the spec gives that run no meaning. -/
  | numRangesOutOfRange (n : Nat)
deriving DecidableEq, Repr

structure State where
  /-- Operand latch `B` (R13). -/
  latchB : Port
  /-- Operand latch `M` (R13). -/
  latchM : Port
  /-- Scan address `P` (R14). -/
  scanP : ScanAddr
  /-- `OPEN`: a run has been opened and not yet emitted (R15). -/
  runOpen : Bool
  /-- `START`: first address of the open run (R15). -/
  runStart : Port
  /-- `LAST`: last matched address of the open run (R15). -/
  runLast : Port
  /-- `BUSY`: an EXPAND is in flight (R16). -/
  busy : Bool
  /-- The response port: records placed and not yet taken, oldest first (R44). -/
  resp : List Record
  /-- The command port: `cmd_valid` and `cmd[50:0]`; `none` is `cmd_valid = 0` (R38). -/
  cmd : Option Command
  /-- The reset input: `none` is not asserted, `some 0` asserted in the next step, `some (n + 1)` asserted `n + 1` steps later (R94, R105; log 6). -/
  resetIn : Option Nat
  /-- How many actions of its program the host has begun: its place in program order (R8, R31). The program itself is a parameter (R20). -/
  hostPos : Nat
  /-- What is left of the actions the host has begun: the rest of a SHOW, a PROGW or a programming of windows (R50, R76, R77). -/
  pending : List HostAction
  /-- The records handed to the host, oldest first (R20; log 1). -/
  received : List Record
  /-- The host's variables (R76; log 23). -/
  vars : HostVars
  /-- What the operator has been shown, oldest first (R79; log 1). -/
  shown : List Shown
  /-- The host's writes, oldest first (R31, R93; log 1). -/
  writes : List HostWrite
  /-- The launch premise "the bridge accepts `IdxWrite8`" (R96; log 4). -/
  bridgeReady : Bool
  /-- The PCI configuration-address register at `0xCF8` (R80). -/
  cfgAddr : CfgAddr
  /-- The four 32-bit decode-window registers of the LPC controller (R17, R28). -/
  lpcWin : PerWindow LpcWord
  /-- The four groups of decode-window registers of the ISA bridge (R17, R28). -/
  isaWin : PerWindow IsaWindow
deriving DecidableEq, Repr

/-- The value of `B`, `M`, `START` and `LAST` after reset.
DESIGN CHOICE: the spec leaves it unspecified (R21); unsafe, see log 2. -/
def resetLatch : Port := 0#16

/-- The host's variables before it has taken any record. DESIGN CHOICE: log 23. -/
def HostVars.initial : HostVars where
  word := 0#32
  range := ⟨0#16, 0#16⟩
  baseLow := 0#8
  baseHigh := 0#8
  maskByte := 0#8
  hit := false
  gathering := []
  runs := []

/-- The machine right after reset: the block as R21 says; the registers R21 leaves unspecified as log 2 says;
the host at the start of its program (log 1); the platform registers as log 3 says and the launch premise of R96 as log 4 says. -/
def State.reset : State where
  latchB := resetLatch
  latchM := resetLatch
  scanP := 0#17
  runOpen := false
  runStart := resetLatch
  runLast := resetLatch
  busy := false
  resp := []
  cmd := none
  resetIn := none
  hostPos := 0
  pending := []
  received := []
  vars := HostVars.initial
  shown := []
  writes := []
  bridgeReady := true
  cfgAddr := 0#32
  lpcWin := ⟨0#32, 0#32, 0#32, 0#32⟩
  isaWin := ⟨⟨0#8, 0#8, 0#8⟩, ⟨0#8, 0#8, 0#8⟩, ⟨0#8, 0#8, 0#8⟩, ⟨0#8, 0#8, 0#8⟩⟩

end Sys2Proof.Machine
end

