-- ==== Sys2Proof/Machine/Flags.lean ====
section
/-! DEFINITION. The one-bit status values and what is computed from them (R16, R38, R66). The block has no condition code (R16). -/

namespace Sys2Proof.Machine

/-- `cmd_ready = NOT BUSY` (R38). -/
def cmdReady (s : State) : Bool := !s.busy

/-- `p` extends the open run: `OPEN = 1` and `zext_17(p) = zext_17(LAST) + 1`, compared in 17 bits so that `0xFFFF` has no successor (R66). -/
def extendsRun (s : State) (p : Port) : Bool :=
  s.runOpen && p.setWidth 17 == s.runLast.setWidth 17 + 1#17

/-- The value of `P` that ends the scan, one above `SCAN_HI`, in 17 bits (R14, R66). -/
def scanEnd (k : Config) : ScanAddr := k.scanHi.setWidth 17 + 1#17

end Sys2Proof.Machine
end

