-- ==== Sys2Proof/Machine/Ops.lean ====
section
/-! DEFINITION. The named operations on the block's ports and registers (R7, R44, R66, R94) and on the platform registers the host writes (R7, R28, R80).
The block takes no exception and returns from none (R82, R86, R87), so no such operation stands here. -/

namespace Sys2Proof.Machine

/-! ### The block -/

/-- `respond(kind, payload)`: place one record at the end of the response port (R7, R44). -/
def respond (r : Record) (s : State) : State := { s with resp := s.resp ++ [r] }

/-- Accept an EXPAND: latch the operands, set `BUSY`, start the scan with no open run; `START` and `LAST` are not initialised (R66). -/
def beginScan (base mask : Port) (s : State) : State :=
  { s with
    latchB := base
    latchM := mask
    busy := true
    scanP := Config.printed.scanLo.setWidth 17
    runOpen := false }

/-- Emit the open run, if there is one: `respond(RUN, {LAST, START})` (R66). -/
def emitOpenRun (s : State) : State :=
  if s.runOpen then respond (.run ⟨s.runStart, s.runLast⟩) s else s

/-- `START <- p ; LAST <- p ; OPEN <- 1` (R66). -/
def openRunAt (p : Port) (s : State) : State :=
  { s with runStart := p, runLast := p, runOpen := true }

/-- The reset input: the block is in the state of R21, an EXPAND in flight is abandoned with no DONE, the response port is empty;
nothing outside the block changes (R21, R94). The unspecified registers take the values of log 2. -/
def resetBlock (s : State) : State :=
  { s with
    latchB := resetLatch
    latchM := resetLatch
    scanP := 0#17
    runOpen := false
    runStart := resetLatch
    runLast := resetLatch
    busy := false
    resp := [] }

/-- One step nearer to the assertion of the reset input, if one is due (log 6). -/
def tickReset (s : State) : State := { s with resetIn := s.resetIn.map (· - 1) }

/-! ### The host's place in its program -/

/-- The host's next action: what is left of an action begun, else the next of its program; `none` when the program has ended (R8, R31). -/
def nextAction (prog : List HostAction) (s : State) : Option HostAction :=
  match s.pending with
  | a :: _ => some a
  | [] => prog[s.hostPos]?

/-- The host begins that action. -/
def dequeueAction (s : State) : State :=
  match s.pending with
  | _ :: rest => { s with pending := rest }
  | [] => { s with hostPos := s.hostPos + 1 }

/-- `acts` come before everything else the host has left. -/
def pushActions (acts : List HostAction) (s : State) : State := { s with pending := acts ++ s.pending }

/-! ### The host's side of the response port -/

/-- What the host keeps of a record it takes: the variables of R76's pseudocode. RUN records gather until DONE says the list is complete (R67). -/
def HostVars.receive (v : HostVars) : Record → HostVars
  | .word w => { v with word := w }
  | .range mask base => { v with range := ⟨base, mask⟩ }
  | .triple low high third => { v with baseLow := low, baseHigh := high, maskByte := third }
  | .hit h => { v with hit := h }
  | .run r => { v with gathering := v.gathering ++ [r] }
  | .done => { v with runs := v.gathering, gathering := [] }

/-- The host takes the first record, `r`, leaving `rest` on the port (R44). -/
def takeRecord (r : Record) (rest : List Record) (s : State) : State :=
  { s with resp := rest, received := s.received ++ [r], vars := s.vars.receive r }

/-! ### The platform registers -/

/-- The window whose LPC register stands at a configuration address (R28). -/
def lpcWindowAt (k : Config) (addr : CfgAddr) : Option (Fin 4) :=
  (List.finRange 4).find? (fun i => k.lpcGenericDecode.get i == addr)

/-- The bridge index of one register of window `i`: table entry plus offset (R28, R81). -/
def isaIndex (k : Config) (i : Fin 4) (which : IsaByte) : Byte := k.isaGenericDecode.get i + which.offset

/-- The window and register that stand at a bridge index (R28). -/
def isaRegisterAt (k : Config) (index : Byte) : Option (Fin 4 × IsaByte) :=
  ((List.finRange 4).flatMap (fun i => [(i, .mask), (i, .low), (i, .high)])).find?
    (fun slot => isaIndex k slot.1 slot.2 == index)

/-- One of a window's three bridge registers replaced. -/
def IsaWindow.write (w : IsaWindow) (which : IsaByte) (v : Byte) : IsaWindow :=
  match which with
  | .mask => { w with maskByte := v }
  | .low => { w with baseLow := v }
  | .high => { w with baseHigh := v }

/-- `CfgWrite32(addr, v)`, one indivisible event: the window register at `addr` takes `v`, the configuration-address register is left at `addr` (R7, R26, R80).
The rest of configuration space is the platform's (R29): no register of the model stands there (log 26). -/
def cfgWrite32 (addr : CfgAddr) (v : LpcWord) (s : State) : State :=
  { s with
    writes := s.writes ++ [.cfg32 addr v]
    cfgAddr := addr
    lpcWin :=
      match lpcWindowAt Config.printed addr with
      | some i => s.lpcWin.set i v
      | none => s.lpcWin }

/-- `IdxWrite8(index, v)`, one indivisible event: the bridge register at `index` takes `v` (R7, R26).
Where the launch premise of R96 does not hold the write does not reach the bridge and no register changes (log 13). -/
def idxWrite8 (index v : Byte) (s : State) : State :=
  { s with
    writes := s.writes ++ [.idx8 index v]
    isaWin :=
      if s.bridgeReady then
        match isaRegisterAt Config.printed index with
        | some (i, which) => s.isaWin.set i ((s.isaWin.get i).write which v)
        | none => s.isaWin
      else s.isaWin }

end Sys2Proof.Machine
end

