-- ==== Sys2Proof/Machine/PortSet.lean ====
section
/-! DEFINITION. PortSetExpander: the match predicate, the operations MATCH and EXPAND, and the reference scan of EXPAND (R62 to R68). -/

namespace Sys2Proof.Machine

/-- `Match(base, mask, p) := (p | em) = (base | em)`, a 16-bit compare (R63). -/
def portMatches (k : Config) (base mask p : Port) : Bool :=
  (p ||| effMask k mask) == (base ||| effMask k mask)

/-- The canonical identity of a range, `base AND NOT mask`, taken with the effective mask (R12, R63). -/
def canonicalBase (k : Config) (base mask : Port) : Port := base &&& ~~~(effMask k mask)

/-- MATCH (R63): one HIT record, no state read or written. -/
def execMatchPort (base mask p : Port) (s : State) : Host.Outcome State Fault Refusal :=
  .next (respond (.hit (portMatches Config.printed base mask p)) s)

/-- EXPAND (R64, R66): the step that accepts it. The scan runs in the block's own moves, `blockMove`, while `BUSY = 1`. -/
def execExpand (base mask : Port) (s : State) : Host.Outcome State Fault Refusal :=
  .next (beginScan base mask s)

/-- One scan step at `p = P[15:0]` (R66), for any answer `hit` of the predicate at `p`: the source demands the scan for single-address matches too (R68, C10). -/
def scanStep (hit : Bool) (s : State) : State :=
  let p : Port := s.scanP.setWidth 16
  let t :=
    if hit then
      if extendsRun s p then { s with runLast := p } else openRunAt p (emitOpenRun s)
    else s
  { t with scanP := s.scanP + 1#17 }

/-- The end of the scan (R66): emit the final open run, respond DONE, `OPEN <- 0`, `BUSY <- 0`. -/
def finishScan (s : State) : State :=
  { respond .done (emitOpenRun s) with runOpen := false, busy := false }

/-- One move of a block whose predicate is `f`: nothing while idle, a scan step while `P` has not reached the end, then the finish (R66). -/
def blockMoveBy (f : Port → Bool) (s : State) : State :=
  if s.busy then
    if s.scanP = scanEnd Config.printed then finishScan s
    else scanStep (f (s.scanP.setWidth 16)) s
  else s

/-- One move of the block: its predicate is `Match(B, M, p)` (R66). -/
def blockMove (s : State) : State :=
  blockMoveBy (portMatches Config.printed s.latchB s.latchM) s

/-- `n` moves of a block whose predicate is `f`. -/
def blockMovesBy (f : Port → Bool) : Nat → State → State
  | 0, s => s
  | n + 1, s => blockMovesBy f n (blockMoveBy f s)

/-- `n` moves of the block. -/
def blockMoves : Nat → State → State
  | 0, s => s
  | n + 1, s => blockMoves n (blockMove s)

/-! ### Terms of the expansion's laws (R6, R69, R70) -/

/-- `tones(v)`, the trailing ones of a 16-bit value: the largest `k` with bits `k-1..0` all ones (R6). -/
def tones (v : Port) : Nat := ((List.range 16).takeWhile (fun i => v.getLsbD i)).length

/-- `popcount(v)`, the number of 1 bits of a 16-bit value (R6). -/
def popcount (v : Port) : Nat := ((List.range 16).filter (fun i => v.getLsbD i)).length

/-- The closed form of the run list (R69): a theorem about the scan, not a second definition. -/
def closedRuns (k : Config) (base mask : Port) : List Run :=
  let em := effMask k mask
  let l : Port := BitVec.ofNat 16 (2 ^ tones em - 1)
  let h := em &&& ~~~l
  let b0 := canonicalBase k base mask
  (((List.range 65536).map (BitVec.ofNat 16)).filter (fun s => s &&& ~~~h == 0#16)).map
    (fun s => ⟨b0 ||| s, b0 ||| s ||| l⟩)

end Sys2Proof.Machine
end

