-- ==== Sys2Proof/Machine/RangeCodec.lean ====
section
/-! DEFINITION. RangeCodec: the operations ENCLPC, DECLPC and ENCISA (R52, R53, R54). All three are combinational: one record, no state read, none written. -/

namespace Sys2Proof.Machine

/-- The LPC word of a range (R40, R52): three terms OR-ed. -/
def encLpc (k : Config) (base mask : Port) : LpcWord :=
  encLpcBase k base ||| encLpcMask k mask ||| k.encEnable

/-- The range of an LPC word (R41, R53). -/
def decLpc (k : Config) (word : LpcWord) : DecodeRange := ⟨decLpcBase k word, decLpcMask k word⟩

/-- The three bytes of a range, in the order base-low, base-high, mask byte (R42, R54). -/
def isaTriple (k : Config) (base mask : Port) : Byte × Byte × Byte :=
  (isaLow base, isaHigh base, isaMask k mask)

/-- ENCLPC (R52). -/
def execEnclpc (base mask : Port) (s : State) : Host.Outcome State Fault Refusal :=
  .next (respond (.word (encLpc Config.printed base mask)) s)

/-- DECLPC (R53). -/
def execDeclpc (word : LpcWord) (s : State) : Host.Outcome State Fault Refusal :=
  let d := decLpc Config.printed word
  .next (respond (.range d.mask d.base) s)

/-- ENCISA (R54). -/
def execEncisa (base mask : Port) (s : State) : Host.Outcome State Fault Refusal :=
  let t := isaTriple Config.printed base mask
  .next (respond (.triple t.1 t.2.1 t.2.2) s)

end Sys2Proof.Machine
end

