-- ==== Sys2Proof/Syntax.lean ====
section
/-! DEFINITION. The five operations of the block, one constructor per row of spec/opcode_table.json (R39). Operands stand in the assembler's order (R49). -/

namespace Sys2Proof

/-- An operation with its operands. The ignored `p` field of formats R and W is no operand (R37). -/
inductive Instr
  /-- ENCLPC: pack a range into the LPC controller's word (R52). -/
  | enclpc (base mask : Port)
  /-- DECLPC: unpack a word of the LPC controller (R53). -/
  | declpc (word : LpcWord)
  /-- ENCISA: pack a range into the ISA bridge's three bytes (R54). -/
  | encisa (base mask : Port)
  /-- MATCH: test one port address against a range (R63). -/
  | matchPort (base mask p : Port)
  /-- EXPAND: list every matching port address as runs (R64). -/
  | expand (base mask : Port)
deriving DecidableEq, Repr

end Sys2Proof
end

