-- ==== Sys2Proof/Machine/Dispatch.lean ====
section
/-! DEFINITION. One arm per operation: the meaning each accepted command has. -/

namespace Sys2Proof.Machine

def exec (i : Instr) (s : State) : Host.Outcome State Fault Refusal :=
  match i with
  | .enclpc base mask => Sys2Proof.Machine.execEnclpc base mask s
  | .declpc word => Sys2Proof.Machine.execDeclpc word s
  | .encisa base mask => Sys2Proof.Machine.execEncisa base mask s
  | .matchPort base mask p => Sys2Proof.Machine.execMatchPort base mask p s
  | .expand base mask => Sys2Proof.Machine.execExpand base mask s

end Sys2Proof.Machine
end

