-- ==== Sys2Proof/WellFormed.lean ====
section
/-! DEFINITION. What is well formed: operations, command words, runs, records and host actions. -/

namespace Sys2Proof

open Sys2Proof.Machine

/-- Every operation is well formed: each operand is an unsigned field of exactly its width (R45) and every value is accepted (R11, R47, R57). -/
def Instr.wellFormed : Instr → Bool
  | .enclpc _ _ => true
  | .declpc _ => true
  | .encisa _ _ => true
  | .matchPort _ _ _ => true
  | .expand _ _ => true

/-- A command word selects one of the five operations: `op` is none of the reserved codes (R39, R46). -/
def commandWellFormed (c : Command) : Bool := (opField c).toNat ≤ 4

/-- A window index selects a window (R28, R76). -/
def windowIndexOk (i : Nat) : Bool := i < Config.printed.nwin

/-- `numRanges` lies in `[1, 4]` (R5, R77). -/
def numRangesOk (n : Nat) : Bool :=
  Config.printed.numRangesMin ≤ n && n ≤ Config.printed.numRangesMax

namespace Machine

/-- `startPort <= endPort` (R43). -/
def Run.wellFormed (r : Run) : Bool := r.startPort ≤ r.endPort

/-- A record's run is well formed; every other record is (R43, R44). -/
def Record.wellFormed : Record → Bool
  | .run r => r.wellFormed
  | .word _ => true
  | .range _ _ => true
  | .triple _ _ _ => true
  | .hit _ => true
  | .done => true

/-- A host action the spec gives a meaning: no reserved command, no window outside 0 to 3, 1 to 4 ranges (R46, R76, R77). -/
def HostAction.wellFormed : HostAction → Bool
  | .present c => commandWellFormed c
  | .progw i _ _ => windowIndexOk i
  | .programWindows numRanges _ => numRangesOk (numRanges.getD Config.printed.numRangesDefault)
  | .take => true
  | .takeToDone => true
  | .reset _ => true
  | .showRange _ _ => true
  | .display => true
  | .writeLpc _ => true
  | .writeIsa _ _ => true

end Machine

end Sys2Proof
end

