-- ==== Sys2Proof/Decode.lean ====
section
/-! DEFINITION. The decoder of command words, total on all 2^51 of them (R37, R39, R46), the encoder, and the rows of spec/opcode_table.json (R51). -/

namespace Sys2Proof

open Sys2Proof.Machine

/-- Why a command word is no operation. -/
inductive Reject
  /-- `op` is 5, 6 or 7 (R46). -/
  | reservedOp (op : BitVec 3)
deriving DecidableEq, Repr

/-- Read a command word. Only `op` tells anything (R48); a field the format ignores has no effect (R37, D6). -/
def decode (c : Command) : Except Reject Instr :=
  match (opField c).toNat with
  | 0 => .ok (.enclpc (baseField c) (maskField c))
  | 1 => .ok (.declpc (wordField c))
  | 2 => .ok (.encisa (baseField c) (maskField c))
  | 3 => .ok (.matchPort (baseField c) (maskField c) (pField c))
  | 4 => .ok (.expand (baseField c) (maskField c))
  | _ => .error (.reservedOp (opField c))

/-- The command word of an operation, with an ignored `p` field 0 (R37, R39). -/
def encode : Instr → Command
  | .enclpc base mask => mkCommand 0#3 0#16 mask base
  | .declpc word => mkCommand 1#3 0#16 (word.extractLsb' 16 16) (word.extractLsb' 0 16)
  | .encisa base mask => mkCommand 2#3 0#16 mask base
  | .matchPort base mask p => mkCommand 3#3 p mask base
  | .expand base mask => mkCommand 4#3 0#16 mask base

/-- The operation's code (R39). -/
def Instr.opcode : Instr → BitVec 3
  | .enclpc _ _ => 0#3
  | .declpc _ => 1#3
  | .encisa _ _ => 2#3
  | .matchPort _ _ _ => 3#3
  | .expand _ _ => 4#3

/-- The operation's mnemonic (R39, R49). -/
def Instr.mnemonic : Instr → String
  | .enclpc _ _ => "ENCLPC"
  | .declpc _ => "DECLPC"
  | .encisa _ _ => "ENCISA"
  | .matchPort _ _ _ => "MATCH"
  | .expand _ _ => "EXPAND"

/-- One row of the machine-readable operation table (R51). -/
structure OpRow where
  mnemonic : String
  /-- the table's `match` -/
  bits : Command
  /-- the table's `mask` -/
  fixed : Command
deriving DecidableEq, Repr

/-- The five rows of spec/opcode_table.json, in its order. -/
def opRows : List OpRow := [
  ⟨"ENCLPC", 0x0000000000000#51, 0x7000000000000#51⟩,
  ⟨"DECLPC", 0x1000000000000#51, 0x7000000000000#51⟩,
  ⟨"ENCISA", 0x2000000000000#51, 0x7000000000000#51⟩,
  ⟨"MATCH", 0x3000000000000#51, 0x7000000000000#51⟩,
  ⟨"EXPAND", 0x4000000000000#51, 0x7000000000000#51⟩]

/-- `(CMD & mask) == match` selects the row (R51). -/
def OpRow.selects (r : OpRow) (c : Command) : Bool := c &&& r.fixed == r.bits

/-- The number `w`, whose bits from `nbits` up are 0, as a command word: 51 bits and no other length (R48).
A number that needs more than 51 bits is no command (log 20). -/
def commandOfNat (nbits w : Nat) : Option Command :=
  let v := w % 2 ^ nbits
  if v < 2 ^ Config.printed.cmdW then some (BitVec.ofNat 51 v) else none

/-- The operation the decoder reads from the word numbered `w`, numbered as spec/opcode_table.json numbers its bits. -/
def decodeTableWord (nbits w : Nat) : Option Instr :=
  match commandOfNat nbits w with
  | none => none
  | some c =>
    match decode c with
    | .ok i => some i
    | .error _ => none

end Sys2Proof
end

