-- ==== Sys2Proof/Machine/Text.lean ====
section
/-! DEFINITION. The text form of a run list (R72), made by the host for the operator; no hardware value depends on it.
Digits, case, separators and the single-port form are the spec's decision D13 (log 16). -/

namespace Sys2Proof.Machine

/-- The hexadecimal digit of a value below 16: `0` to `9`, then `A` to `F` in upper case (R72). -/
def hexDigit (n : Nat) : Char :=
  if n < 10 then Char.ofNat (48 + n) else Char.ofNat (55 + n)

/-- The base-16 digits of `n`, most significant first, no leading zeros, `0` for 0; at most `fuel` of them. -/
def hexDigits : Nat → Nat → List Char
  | 0, _ => []
  | fuel + 1, n =>
    if n < 16 then [hexDigit n] else hexDigits fuel (n / 16) ++ [hexDigit (n % 16)]

/-- `Hex(v)` of R72 for a 16-bit address. -/
def hexPort (v : Port) : List Char := hexDigits 4 v.toNat

/-- `TextRun(s, e)` of R72: one number for a single port, else `start-end`. -/
def textRun (r : Run) : List Char :=
  if r.startPort = r.endPort then hexPort r.startPort
  else hexPort r.startPort ++ '-' :: hexPort r.endPort

/-- `Text(runs)` of R72: the runs in list order, joined by `,`, nothing after the last. -/
def textRuns : List Run → List Char
  | [] => []
  | [r] => textRun r
  | r :: rs => textRun r ++ ',' :: textRuns rs

end Sys2Proof.Machine
end

