-- ==== Sys2Proof/Machine/HostAgent.lean ====
section
/-! DEFINITION. The host: its pseudo-operations SHOW and PROGW, the programming of 1 to 4 windows (R50, R76, R77, R79), and what each of its actions does (R38, R44, R94, R105). -/

namespace Sys2Proof.Machine

/-- `SHOW base, mask` (R50, R76 (a), R79): ENCLPC, EXPAND, then the display. Each result is taken before the next command (R105). -/
def showSequence (base mask : Port) : List HostAction := [
  .present (encode (.enclpc base mask)), .take,
  .present (encode (.expand base mask)), .takeToDone,
  .display]

/-- `PROGW i, base, mask` (R50, R76): (a) SHOW, (b) the LPC write, (c) ENCISA and the three ISA byte writes, base-low, base-high, mask byte. -/
def progwSequence (i : Fin 4) (base mask : Port) : List HostAction := [
  .showRange base mask,
  .writeLpc i,
  .present (encode (.encisa base mask)), .take,
  .writeIsa i .low, .writeIsa i .high, .writeIsa i .mask]

/-- Program the first `n` windows, window `j` with range `j`, in index order: the range of indices is half-open (R77, C9). -/
def windowsSequence (n : Nat) (ranges : PerWindow DecodeRange) : List HostAction :=
  ((List.finRange 4).filter (fun j => j.val < n)).map
    (fun j => .progw j.val (ranges.get j).base (ranges.get j).mask)

/-- The byte of the host's variables that goes to a bridge register (R76 (c)). -/
def isaValue (v : HostVars) : IsaByte → Byte
  | .mask => v.maskByte
  | .low => v.baseLow
  | .high => v.baseHigh

/-- Present a command at the command port (R38). It is the host's turn, so the port is free. -/
def actPresent (c : Command) (s : State) : Host.Outcome State Fault Refusal :=
  .next { s with cmd := some c }

/-- Take the first record; with none on the port the host goes on waiting (R31, R44; log 28). -/
def actTake (s : State) : Host.Outcome State Fault Refusal :=
  match s.resp with
  | r :: rs => .next (takeRecord r rs s)
  | [] => .next (pushActions [.take] s)

/-- Take a record and go on taking until it was DONE (R67, R105). -/
def actTakeToDone (s : State) : Host.Outcome State Fault Refusal :=
  match s.resp with
  | .done :: rs => .next (takeRecord .done rs s)
  | r :: rs => .next (takeRecord r rs (pushActions [.takeToDone] s))
  | [] => .next (pushActions [.takeToDone] s)

/-- Have the reset input asserted `after` steps from now (R105; log 6). -/
def actReset (after : Nat) (s : State) : Host.Outcome State Fault Refusal :=
  .next { s with resetIn := some after }

/-- Begin SHOW, once every record of the operations before it is taken (R8, R105; log 18). -/
def actShow (base mask : Port) (s : State) : Host.Outcome State Fault Refusal :=
  match s.resp with
  | r :: rs => .next (takeRecord r rs (pushActions [.showRange base mask] s))
  | [] => .next (pushActions (showSequence base mask) s)

/-- Show the word and the run text (R76 (a), R79). The display changes no hardware state. -/
def actDisplay (s : State) : Host.Outcome State Fault Refusal :=
  .next { s with shown := s.shown ++ [⟨s.vars.word, textRuns s.vars.runs⟩] }

/-- `CfgWrite32(LPCGenericDecode[i], word)` (R76 (b)). -/
def actWriteLpc (i : Fin 4) (s : State) : Host.Outcome State Fault Refusal :=
  .next (cfgWrite32 (Config.printed.lpcGenericDecode.get i) s.vars.word s)

/-- `IdxWrite8(ISAGenericDecode[i] + d, byte)` (R76 (c)). -/
def actWriteIsa (i : Fin 4) (which : IsaByte) (s : State) : Host.Outcome State Fault Refusal :=
  .next (idxWrite8 (isaIndex Config.printed i which) (isaValue s.vars which) s)

/-- Begin PROGW; an index outside 0 to 3 has no table entry and is refused (R76, D26). -/
def actProgw (i : Nat) (base mask : Port) (s : State) : Host.Outcome State Fault Refusal :=
  if h : i < Config.printed.nwin then .next (pushActions (progwSequence ⟨i, h⟩ base mask) s)
  else .refused (.noSuchWindow i)

/-- Begin the programming of `numRanges` windows, by default 4; a number outside 1 to 4 is refused (R77; log 12). -/
def actProgramWindows (numRanges : Option Nat) (ranges : PerWindow DecodeRange) (s : State) :
    Host.Outcome State Fault Refusal :=
  let n := numRanges.getD Config.printed.numRangesDefault
  if numRangesOk n then .next (pushActions (windowsSequence n ranges) s)
  else .refused (.numRangesOutOfRange n)

/-- One action of the host.
DESIGN CHOICE: a host program may hold the window writes in any order and PROGW in any index order. R100 gives such a host no guarantee;
the model lets each register take the value written, in the order of the program (log 29). -/
def hostAct (a : HostAction) (s : State) : Host.Outcome State Fault Refusal :=
  match a with
  | .present c => actPresent c s
  | .take => actTake s
  | .takeToDone => actTakeToDone s
  | .reset after => actReset after s
  | .showRange base mask => actShow base mask s
  | .display => actDisplay s
  | .writeLpc i => actWriteLpc i s
  | .writeIsa i which => actWriteIsa i which s
  | .progw i base mask => actProgw i base mask s
  | .programWindows numRanges ranges => actProgramWindows numRanges ranges s

/-- The host's turn: it begins its next action, or has ended its program and does nothing. -/
def hostTurn (prog : List HostAction) (s : State) : Host.Outcome State Fault Refusal :=
  match nextAction prog s with
  | some a => hostAct a (dequeueAction s)
  | none => .next s

end Sys2Proof.Machine
end

