-- ==== Sys2Proof/Machine/Accept.lean ====
section
/-! DEFINITION. Accepting a command (R38, R46), the reset input (R94), and which agent moves next (R8, R31; log 5). -/

namespace Sys2Proof.Machine

/-- The block accepts command `c`, which leaves the command port (DEDUCED, log 11), and runs the operation it selects.
A reserved `op` is refused: the block would send nothing, and a model must not let the host step past it (R46, R83, D5). -/
def acceptCommand (c : Command) (s : State) : Host.Outcome State Fault Refusal :=
  match decode c with
  | .ok i => exec i { s with cmd := none }
  | .error (.reservedOp op) => .refused (.reservedOp op)

/-- The block's turn: it accepts a command presented to a ready port (R38), else it makes its own move. -/
def blockTurn (s : State) : Host.Outcome State Fault Refusal :=
  match s.cmd with
  | some c => if cmdReady s then acceptCommand c s else .next (blockMove s)
  | none => .next (blockMove s)

/-- Whose turn it is (R8, R31): the block's from the presentation of a command to its last record, so that a command takes effect completely
before the host's next action begins; the host's otherwise. -/
def nextAgent (s : State) : Agent := if s.busy || s.cmd.isSome then .block else .host

/-- The turn of the agent whose turn it is, for a host that runs `prog`. -/
def agentTurn (prog : List HostAction) (s : State) : Host.Outcome State Fault Refusal :=
  match nextAgent s with
  | .block => blockTurn s
  | .host => hostTurn prog s

/-- The reset input is asserted: the block is reset, whatever it was doing, and the input is released (R21, R94);
the runs the host has gathered of an abandoned EXPAND are void (R21; log 23). -/
def resetTurn (s : State) : State :=
  { resetBlock s with resetIn := none, vars := { s.vars with gathering := [] } }

/-- One step of the whole, for a host that runs `prog`: the reset input where it is asserted, else the turn of one agent. -/
def advance (prog : List HostAction) (s : State) : Host.Outcome State Fault Refusal :=
  if s.resetIn = some 0 then .next (resetTurn s) else agentTurn prog (tickReset s)

/-- Present the command numbered `w` to a ready port with no reset due, so that the next step accepts it (log 21). A number that is no command changes nothing. -/
def placeCommand (s : State) (nbits w : Nat) : State :=
  match commandOfNat nbits w with
  | some c => { s with cmd := some c, busy := false, resetIn := none }
  | none => s

end Sys2Proof.Machine
end

