-- ==== Sys2Proof/Machine/Step.lean ====
section
/-! DEFINITION. The step of the machine, and how one instruction word is placed where the next step runs it. -/

namespace Sys2Proof.Machine

/-- One step: the reset input, an accepted command, one action of the host, or one move of the block. The host runs the program that is the model's parameter (R20). -/
def step (s : State) : Host.Outcome State Fault Refusal := advance Config.hostProgram s

/-- `s` with the command numbered `w` presented to a ready command port; the block has no program counter and no memory to fetch from (R14, R35; log 21). -/
def State.withFetchWord (s : State) (nbits w : Nat) : State := placeCommand s nbits w

end Sys2Proof.Machine
end

