-- ==== Sys2Proof/Machine/Assembler.lean ====
section
/-! DEFINITION. The assembler lines of the spec's examples (R49) with the pseudo-operations (R50): one operation per line, operands hexadecimal with `0x`, a comment from `;` or an arrow to the end of the line.
What R49 leaves open of the lexical form is log 19. -/

namespace Sys2Proof.Machine

/-- The low `w` base-16 digits of `n`, most significant first. -/
def hexFixed : Nat → Nat → List Char
  | 0, _ => []
  | w + 1, n => hexFixed w (n / 16) ++ [hexDigit (n % 16)]

/-- A 16-bit operand as the examples print it: `0x` and four digits. -/
def portOperand (v : Port) : List Char := '0' :: 'x' :: hexFixed 4 v.toNat

/-- A 32-bit operand as the examples print it: `0x` and eight digits. -/
def wordOperand (v : LpcWord) : List Char := '0' :: 'x' :: hexFixed 8 v.toNat

/-- Operands joined by a comma and a space. -/
def joinOperands : List (List Char) → List Char
  | [] => []
  | [a] => a
  | a :: as => a ++ ',' :: ' ' :: joinOperands as

/-- The mnemonics of R49 and R50 as characters. -/
def nameEnclpc : List Char := ['E', 'N', 'C', 'L', 'P', 'C']
@[inherit_doc nameEnclpc] def nameDeclpc : List Char := ['D', 'E', 'C', 'L', 'P', 'C']
@[inherit_doc nameEnclpc] def nameEncisa : List Char := ['E', 'N', 'C', 'I', 'S', 'A']
@[inherit_doc nameEnclpc] def nameMatch : List Char := ['M', 'A', 'T', 'C', 'H']
@[inherit_doc nameEnclpc] def nameExpand : List Char := ['E', 'X', 'P', 'A', 'N', 'D']
@[inherit_doc nameEnclpc] def nameShow : List Char := ['S', 'H', 'O', 'W']
@[inherit_doc nameEnclpc] def nameProgw : List Char := ['P', 'R', 'O', 'G', 'W']

/-- An operation as one line: mnemonic, then `base`, `mask`, `p` or `word` in that order (R49). -/
def printInstr : Instr → List Char
  | .enclpc base mask => nameEnclpc ++ ' ' :: joinOperands [portOperand base, portOperand mask]
  | .declpc word => nameDeclpc ++ ' ' :: joinOperands [wordOperand word]
  | .encisa base mask => nameEncisa ++ ' ' :: joinOperands [portOperand base, portOperand mask]
  | .matchPort base mask p => nameMatch ++ ' ' :: joinOperands [portOperand base, portOperand mask, portOperand p]
  | .expand base mask => nameExpand ++ ' ' :: joinOperands [portOperand base, portOperand mask]

/-- The value of a hexadecimal digit, either case. -/
def hexValue (c : Char) : Option Nat :=
  if '0' ≤ c ∧ c ≤ '9' then some (c.toNat - 48)
  else if 'A' ≤ c ∧ c ≤ 'F' then some (c.toNat - 55)
  else if 'a' ≤ c ∧ c ≤ 'f' then some (c.toNat - 87)
  else none

/-- The value of a digit string read after `acc`. -/
def hexNumber (acc : Nat) : List Char → Option Nat
  | [] => some acc
  | c :: cs =>
    match hexValue c with
    | some d => hexNumber (acc * 16 + d) cs
    | none => none

/-- An operand: `0x` and at least one digit. -/
def parseOperand : List Char → Option Nat
  | '0' :: 'x' :: d :: ds => hexNumber 0 (d :: ds)
  | _ => none

/-- The window index of `PROGW`, written as in the examples: one decimal digit. -/
def parseIndex : List Char → Option Nat
  | [c] => if '0' ≤ c ∧ c ≤ '9' then some (c.toNat - 48) else none
  | _ => none

/-- A line without its comment (R49). -/
def stripComment : List Char → List Char
  | [] => []
  | ';' :: _ => []
  | '-' :: '>' :: _ => []
  | c :: cs => c :: stripComment cs

/-- A finished word, if there is one; `cur` holds it in reverse. -/
def flushWord (cur : List Char) : List (List Char) :=
  match cur with
  | [] => []
  | _ :: _ => [cur.reverse]

/-- The words of a line, a comma being a word of its own; `cur` is the word being read, in reverse. -/
def splitWords (cur : List Char) : List Char → List (List Char)
  | [] => flushWord cur
  | c :: cs =>
    if c = ' ' then flushWord cur ++ splitWords [] cs
    else if c = ',' then flushWord cur ++ [','] :: splitWords [] cs
    else splitWords (c :: cur) cs

/-- The word a line's comma is. -/
def comma : List Char := [',']

/-- A range operation of the given name, its integers cut to 16 bits (R45). -/
def rangeLine (name : List Char) (base mask : Nat) : Option HostAction :=
  let b := cutToPort base
  let m := cutToPort mask
  if name = nameEnclpc then some (.present (encode (.enclpc b m)))
  else if name = nameEncisa then some (.present (encode (.encisa b m)))
  else if name = nameExpand then some (.present (encode (.expand b m)))
  else if name = nameShow then some (.showRange b m)
  else none

/-- The words of one line as host actions: none for an empty line, one for an operation or a pseudo-operation, nothing for any other line. -/
def parseWords : List (List Char) → Option (List HostAction)
  | [] => some []
  | [name, w] =>
    match parseOperand w with
    | some n =>
      if name = nameDeclpc ∧ n < 2 ^ 32 then some [.present (encode (.declpc (BitVec.ofNat 32 n)))] else none
    | none => none
  | [name, b, c1, m] =>
    if c1 = comma then
      match parseOperand b, parseOperand m with
      | some base, some mask => (rangeLine name base mask).map (fun a => [a])
      | _, _ => none
    else none
  | [name, x, c1, y, c2, z] =>
    if c1 = comma ∧ c2 = comma then
      match parseOperand y, parseOperand z with
      | some b, some c =>
        if name = nameMatch then
          (parseOperand x).map (fun a =>
            [.present (encode (.matchPort (cutToPort a) (cutToPort b) (cutToPort c)))])
        else if name = nameProgw then
          (parseIndex x).map (fun i => [.progw i (cutToPort b) (cutToPort c)])
        else none
      | _, _ => none
    else none
  | _ => none

/-- One line of a host program (R49, R50). -/
def assembleLine (line : List Char) : Option (List HostAction) :=
  parseWords (splitWords [] (stripComment line))

/-- The lines of a host program, in order; nothing if one of them is no line of R49. -/
def assemble : List (List Char) → Option (List HostAction)
  | [] => some []
  | l :: ls =>
    match assembleLine l, assemble ls with
    | some a, some rest => some (a ++ rest)
    | _, _ => none

end Sys2Proof.Machine
end

