-- ==== Sys2Proof/Safety.lean ====
section
/-! DEFINITION. The terms the claims use: run lists, what an operation leaves alone, the invariant of the machine, and the host's writes for a window. -/

namespace Sys2Proof.Machine

/-- `rs` is the run list of the predicate `f` (R64, R65): it is exhaustive, its runs are in order, and no two are adjacent or overlap. -/
structure IsRunList (f : Port → Bool) (rs : List Run) : Prop where
  /-- An address lies in some run iff it is a match (R65 (1)). -/
  exhaustive : ∀ p : Port, (∃ r ∈ rs, r.startPort ≤ p ∧ p ≤ r.endPort) ↔ f p = true
  /-- `si <= ei` in every run (R65 (3)). -/
  ordered : ∀ r ∈ rs, r.startPort ≤ r.endPort
  /-- `ei + 1 < sj` for a run and a later one (R65 (2)). -/
  separated : rs.Pairwise (fun r q => r.endPort.toNat + 1 < q.startPort.toNat)

/-- The host's part of the state is the same: its place in its program, what it took, its variables, what it showed, its writes. -/
structure SameHost (s t : State) : Prop where
  hostPos : t.hostPos = s.hostPos
  pending : t.pending = s.pending
  received : t.received = s.received
  vars : t.vars = s.vars
  shown : t.shown = s.shown
  writes : t.writes = s.writes

/-- The platform registers outside the block are the same (R17, R94). -/
structure SamePlatform (s t : State) : Prop where
  bridgeReady : t.bridgeReady = s.bridgeReady
  cfgAddr : t.cfgAddr = s.cfgAddr
  lpcWin : t.lpcWin = s.lpcWin
  isaWin : t.isaWin = s.isaWin

/-- The block's registers are the same (R13 to R16). -/
structure SameBlock (s t : State) : Prop where
  latchB : t.latchB = s.latchB
  latchM : t.latchM = s.latchM
  scanP : t.scanP = s.scanP
  runOpen : t.runOpen = s.runOpen
  runStart : t.runStart = s.runStart
  runLast : t.runLast = s.runLast
  busy : t.busy = s.busy

/-- The invariant of the machine: what holds at reset and after every step. -/
structure State.Inv (s : State) : Prop where
  /-- `P` does not pass the value that ends the scan (R14, R59). -/
  scan_le : s.scanP.toNat ≤ 0x10000
  /-- A run is open only while an EXPAND is in flight (R15, R66). -/
  idle_closed : s.busy = false → s.runOpen = false
  /-- The open run lies below the next address to test (R66). -/
  open_below : s.runOpen = true → s.runLast.toNat < s.scanP.toNat
  /-- The open run is a run (R43). -/
  open_ordered : s.runOpen = true → s.runStart ≤ s.runLast
  /-- Every address of the open run is a match of the latched range (R15, R66). -/
  open_matches : s.runOpen = true → ∀ p : Port, s.runStart ≤ p → p ≤ s.runLast →
    portMatches Config.printed s.latchB s.latchM p = true
  /-- Every record on the response port is well formed (R43, R44). -/
  resp_ok : ∀ r ∈ s.resp, r.wellFormed = true
  /-- So is every record the host took. -/
  received_ok : ∀ r ∈ s.received, r.wellFormed = true

/-- The host is between two operations: no command presented, nothing in flight, every record taken, no reset due (R8, R105). -/
structure State.Quiet (s : State) : Prop where
  cmd : s.cmd = none
  busy : s.busy = false
  resp : s.resp = []
  gathering : s.vars.gathering = []
  resetIn : s.resetIn = none

/-- The four writes of `PROGW i, base, mask`, in the order R76 fixes, with the addresses of R28. -/
def windowWrites (i : Fin 4) (base mask : Port) : List HostWrite :=
  let lpcAddr : CfgAddr := 0x8000F884#32 + 4#32 * BitVec.ofNat 32 i.val
  let isaBase : Byte :=
    match i with
    | 0 => 0x20#8
    | 1 => 0x23#8
    | 2 => 0x30#8
    | 3 => 0x33#8
  [ .cfg32 lpcAddr (encLpc Config.printed base mask),
    .idx8 (isaBase + 1#8) (base.extractLsb' 0 8),
    .idx8 (isaBase + 2#8) (base.extractLsb' 8 8),
    .idx8 isaBase (mask.extractLsb' 2 6 ++ 3#2) ]

/-- The writes of programming the first `n` windows, window `j` with range `j`, in index order (R77). -/
def programWrites (n : Nat) (ranges : PerWindow DecodeRange) : List HostWrite :=
  ((List.finRange 4).filter (fun j => j.val < n)).flatMap
    (fun j => windowWrites j (ranges.get j).base (ranges.get j).mask)

/-- `n` steps of the machine whose host runs `prog`, stopping at the first refusal. -/
def runSteps (prog : List HostAction) : Nat → State → Host.Outcome State Fault Refusal
  | 0, s => .next s
  | n + 1, s =>
    match advance prog s with
    | .next t => runSteps prog n t
    | .fault r => .fault r
    | .refused r => .refused r

/-- Some number of steps of the machine whose host runs `prog` leads from `s` to `t`. -/
def LeadsTo (prog : List HostAction) (s t : State) : Prop := ∃ n : Nat, runSteps prog n s = .next t

end Sys2Proof.Machine
end

