-- ==== Sys2Proof/Certificates/Slice0/Obligations.lean ====
section
/-! DEFINITION. The statements for the provers. Each docstring names the rule or section of spec/ it formalises.
The machine's step is `advance` with the host's program, the model's parameter (R20): what is stated for every program `prog` holds of `step`. -/

open Sys2Proof Sys2Proof.Machine

/-! ### Encodings -/

/-- Decoding the word of an operation gives the operation back, for every operand value (R37, R39). -/
def Obligations.DecodeOfEncodeIsIdentity : Prop := ∀ i : Instr, decode (encode i) = .ok i

/-- Encoding what a command decodes to gives the command back, its `p` field cleared where the format ignores it (R37, D6). -/
def Obligations.EncodeOfDecodeKeepsUsedFields : Prop :=
  ∀ (c : Command) (i : Instr), decode c = .ok i →
    encode i = if opField c = 3#3 then c else c &&& 0x70000FFFFFFFF#51

/-- The decoder rejects exactly the reserved codes 5, 6 and 7, by name, and reads every other command (R39, R46). -/
def Obligations.DecoderRejectsExactlyReservedCodes : Prop :=
  ∀ c : Command,
    ((∃ i, decode c = .ok i) ↔ (opField c).toNat ≤ 4) ∧
    (5 ≤ (opField c).toNat ↔ decode c = .error (.reservedOp (opField c)))

/-- `(CMD & mask) == match` selects a row of the table exactly when the decoder reads that row's operation (R51). -/
def Obligations.TableRowSelectsWhatDecodes : Prop :=
  ∀ (c : Command) (r : OpRow), r ∈ opRows →
    (r.selects c = true ↔ ∃ i, decode c = .ok i ∧ i.mnemonic = r.mnemonic)

/-- Of two commands that differ only in bits 47:32, formats R and W decode to the same operation (R37, D6). -/
def Obligations.IgnoredFieldHasNoEffect : Prop :=
  ∀ c d : Command, opField c = opField d → opField c ≠ 3#3 → wordField c = wordField d →
    decode c = decode d

/-- Command words of the spec's vectors decode to the operations they stand for (95_test_vectors.md T; R37, R39). -/
def Obligations.WrittenOutCommandsDecode : Prop :=
  decode 0x0000000FC0200#51 = .ok (.enclpc 0x0200#16 0x00FC#16) ∧
  decode 0x1000012345678#51 = .ok (.declpc 0x12345678#32) ∧
  decode 0x2000000FEABCD#51 = .ok (.encisa 0xABCD#16 0x00FE#16) ∧
  decode 0x3035200700300#51 = .ok (.matchPort 0x0300#16 0x0070#16 0x0352#16) ∧
  decode 0x4000000080010#51 = .ok (.expand 0x0010#16 0x0008#16) ∧
  decode 0x6FFFFFFFFFFFF#51 = .error (.reservedOp 6#3)

/-- The 35 bits of a record tell it from every other, and kinds 6 and 7 stand for none (R44, R47, R48). -/
def Obligations.RecordBitsReadBack : Prop :=
  (∀ r : Record, Record.ofBits r.bits = some r) ∧
  (∀ v : BitVec 35, 6 ≤ (v.extractLsb' 32 3).toNat → Record.ofBits v = none)

/-- Where each kind of record puts its data (the table of R44). -/
def Obligations.RecordDataLayout : Prop :=
  (∀ w, (Record.word w).bits.extractLsb' 0 32 = w ∧ (Record.word w).bits.extractLsb' 32 3 = 0#3) ∧
  (∀ m b, (Record.range m b).bits.extractLsb' 16 16 = m ∧ (Record.range m b).bits.extractLsb' 0 16 = b ∧
    (Record.range m b).bits.extractLsb' 32 3 = 1#3) ∧
  (∀ bl bh mk, (Record.triple bl bh mk).bits.extractLsb' 0 8 = bl ∧
    (Record.triple bl bh mk).bits.extractLsb' 8 8 = bh ∧
    (Record.triple bl bh mk).bits.extractLsb' 16 8 = mk ∧
    (Record.triple bl bh mk).bits.extractLsb' 24 8 = 0#8 ∧
    (Record.triple bl bh mk).bits.extractLsb' 32 3 = 2#3) ∧
  (∀ h, (Record.hit h).bits.getLsbD 0 = h ∧ (Record.hit h).bits.extractLsb' 1 31 = 0#31 ∧
    (Record.hit h).bits.extractLsb' 32 3 = 3#3) ∧
  (∀ r : Run, (Record.run r).bits.extractLsb' 16 16 = r.endPort ∧
    (Record.run r).bits.extractLsb' 0 16 = r.startPort ∧ (Record.run r).bits.extractLsb' 32 3 = 4#3) ∧
  (Record.done.bits = 5#3 ++ 0#32)

/-! ### RangeCodec -/

/-- ENCLPC answers, from every state, with one WORD in the pattern `0000000000mmmmmm00bbbbbbbbbbbbb1` and changes nothing else (R40, R52). -/
def Obligations.EnclpcPlacesWordInPattern : Prop :=
  ∀ (base mask : Port) (s : State),
    exec (.enclpc base mask) s = .next { s with
      resp := s.resp ++ [.word (0#10 ++ mask.extractLsb' 0 6 ++ 0#2 ++ base.extractLsb' 1 13 ++ 1#1)] }

/-- DECLPC answers, from every state and for every word, with one RANGE: `mask = {0x00, word[23:18], 0b00}`, `base = {word[15:2], 0b00}`, and changes nothing else (R41, R53). -/
def Obligations.DeclpcPlacesRangeOfWordBits : Prop :=
  ∀ (word : LpcWord) (s : State),
    exec (.declpc word) s = .next { s with
      resp := s.resp ++ [.range (0#8 ++ word.extractLsb' 18 6 ++ 0#2) (word.extractLsb' 2 14 ++ 0#2)] }

/-- ENCISA answers, from every state, with one TRIPLE: `base[7:0]`, `base[15:8]`, `mask[7:2]` above `0b11`, and changes nothing else (R42, R54). -/
def Obligations.EncisaPlacesThreeBytes : Prop :=
  ∀ (base mask : Port) (s : State),
    exec (.encisa base mask) s = .next { s with
      resp := s.resp ++
        [.triple (base.extractLsb' 0 8) (base.extractLsb' 8 8) (mask.extractLsb' 2 6 ++ 3#2)] }

/-- Every WORD an operation places has its enable bit set (R56). -/
def Obligations.EveryEncodedWordIsEnabled : Prop :=
  (∀ base mask : Port, (encLpc Config.printed base mask).getLsbD 0 = true) ∧
  (∀ (i : Instr) (s t : State), exec i s = .next t →
    ∀ w, Record.word w ∈ t.resp → Record.word w ∈ s.resp ∨ w.getLsbD 0 = true)

/-- The round trip in both directions, when it returns its operands, and when the source's own claim agrees (40_rangecodec.md section 2: the spec's own inference from R52 and R53; C1, C2). -/
def Obligations.RoundTripOfTheLpcWord : Prop :=
  (∀ base mask : Port,
    decLpc Config.printed (encLpc Config.printed base mask) = ⟨base &&& 0x3FFC#16, mask &&& 0x3C#16⟩) ∧
  (∀ base mask : Port,
    decLpc Config.printed (encLpc Config.printed base mask) = ⟨base &&& 0xFFFC#16, mask &&& 0x3F#16⟩ ↔
      base.extractLsb' 14 2 = 0#2 ∧ mask.extractLsb' 0 2 = 0#2) ∧
  (∀ base mask : Port,
    decLpc Config.printed (encLpc Config.printed base mask) = ⟨base, mask⟩ ↔
      base &&& 0xC003#16 = 0#16 ∧ mask &&& 0xFFC3#16 = 0#16) ∧
  (∀ word : LpcWord,
    encLpc Config.printed (decLpc Config.printed word).base (decLpc Config.printed word).mask =
      (word &&& 0x003C3FFC#32) ||| 1#32)

/-- Cutting software integers to 16 bits loses nothing: the codec's results are the source's formulas on the whole integers (40_rangecodec.md section 2: the spec's own inference from R52 and R54). -/
def Obligations.TruncationLosesNothing : Prop :=
  ∀ b m : Nat,
    (encLpc Config.printed (cutToPort b) (cutToPort m)).toNat =
      (b &&& 0x3FFF) ||| ((m &&& 0x3F) <<< 16) ||| 1 ∧
    (isaLow (cutToPort b)).toNat = b &&& 0xFF ∧
    (isaHigh (cutToPort b)).toNat = (b >>> 8) &&& 0xFF ∧
    (isaMask Config.printed (cutToPort m)).toNat = (m ||| 3) &&& 0xFF

/-- The LPC word read back and the ISA triple describe the same port set exactly when `base[15:14] = 0` and `mask[7:6] = 0` (40_rangecodec.md section 2: the spec's own inference from R53, R54 and R63). -/
def Obligations.EncodingsAgreeExactlyWhen : Prop :=
  ∀ base mask : Port,
    (∀ p : Port,
      portMatches Config.printed (decLpc Config.printed (encLpc Config.printed base mask)).base
          (decLpc Config.printed (encLpc Config.printed base mask)).mask p =
        portMatches Config.printed
          ((isaTriple Config.printed base mask).2.1 ++ (isaTriple Config.printed base mask).1)
          ((isaTriple Config.printed base mask).2.2.setWidth 16) p) ↔
      base.extractLsb' 14 2 = 0#2 ∧ mask.extractLsb' 6 2 = 0#2

/-! ### PortSetExpander: the predicate -/

/-- The effective mask: bits 15:2 are the mask's, bits 1:0 are 1 (R62). -/
def Obligations.EffectiveMaskForcesLowBits : Prop :=
  ∀ mask : Port, effMask Config.printed mask = mask.extractLsb' 2 14 ++ 3#2

/-- MATCH answers, from every state, with one HIT and changes nothing else; the HIT is 1 iff `(p | em) = (base | em)` with `em = mask | 3`,
that is, iff every bit from 2 up that the mask does not free agrees between `p` and `base` (R63). -/
def Obligations.MatchPlacesHitOfThePredicate : Prop :=
  ∀ (base mask p : Port) (s : State), ∃ h : Bool,
    exec (.matchPort base mask p) s = .next { s with resp := s.resp ++ [.hit h] } ∧
    (h = true ↔ p ||| (mask ||| 3#16) = base ||| (mask ||| 3#16)) ∧
    (h = true ↔ ∀ i : Nat, 2 ≤ i → i < 16 → mask.getLsbD i = false → p.getLsbD i = base.getLsbD i)

/-- For any values of the constants: the equivalent forms of the predicate, its symmetry, and that a range contains its own base (41_portset.md section 1: the spec's own inferences from R63). -/
def Obligations.PredicateLawsForAnyConstants : Prop :=
  ∀ (k : Config) (base mask p : Port),
    (portMatches k base mask p = true ↔ (p ^^^ base) &&& ~~~(effMask k mask) = 0#16) ∧
    (portMatches k base mask p = true ↔ canonicalBase k p mask = canonicalBase k base mask) ∧
    portMatches k base mask p = portMatches k p mask base ∧
    portMatches k base mask base = true ∧
    portMatches k base 0xFFFF#16 p = true

/-- With mask 0 the predicate holds for exactly the four addresses from `base & 0xFFFC` (R63). -/
def Obligations.ZeroMaskCoversFourPorts : Prop :=
  ∀ base p : Port,
    portMatches Config.printed base 0#16 p = true ↔
      (base &&& 0xFFFC#16).toNat ≤ p.toNat ∧ p.toNat ≤ (base &&& 0xFFFC#16).toNat + 3

/-! ### PortSetExpander: the expansion -/

/-- EXPAND, from every state: the step that accepts it answers the state of R66's acceptance, and 65 537 moves of the block later the response port has gained
the run list of the range, in order, then DONE; the run registers hold the last run, `P` is `0x10000`, `OPEN` and `BUSY` are 0, and nothing else has changed (R64, R66). The number of moves is the reference scan's (log 7). -/
def Obligations.ExpandSendsRunListThenDone : Prop :=
  ∀ (base mask : Port) (s : State), ∃ (t : State) (rs : List Run) (r : Run),
    exec (.expand base mask) s = .next t ∧
    t = { s with latchB := base, latchM := mask, busy := true, scanP := 0#17, runOpen := false } ∧
    IsRunList (portMatches Config.printed base mask) (rs ++ [r]) ∧
    blockMoves 65537 t = { s with
      latchB := base, latchM := mask, busy := false, scanP := 0x10000#17, runOpen := false,
      runStart := r.startPort, runLast := r.endPort,
      resp := s.resp ++ (rs ++ [r]).map .run ++ [.done] }

/-- Where no reset is due, the 65 537 steps that follow the acceptance of an EXPAND are the block's moves up to DONE, whatever program the host runs and whatever command waits at the port (R31, R38, R66, R67). The number of steps is the reference scan's (log 7). -/
def Obligations.ExpandRunsToDoneOnItsOwn : Prop :=
  ∀ (base mask : Port) (s : State), s.resetIn = none →
    Host.Core.run Sys2Proof.core 65537 (beginScan base mask s) =
      .next (blockMoves 65537 (beginScan base mask s))

/-- The scan takes 65 536 steps for every range: `P` rises by one each move and no DONE is placed; `BUSY` stays 1 until move 65 537, which places DONE at the end of the response port and clears it (R14, R16, R66; that no range ends it early is the spec's own inference, 41_portset.md section 3). The number of moves is the reference scan's (log 7). -/
def Obligations.ScanRunsToTheTopOfThePortSpace : Prop :=
  ∀ (base mask : Port) (s : State),
    (∀ n : Nat, n ≤ 65536 →
      (blockMoves n (beginScan base mask s)).scanP = BitVec.ofNat 17 n ∧
      (blockMoves n (beginScan base mask s)).busy = true ∧
      (Record.done ∈ (blockMoves n (beginScan base mask s)).resp ↔ Record.done ∈ s.resp)) ∧
    (blockMoves 65537 (beginScan base mask s)).busy = false ∧
    ∃ xs, (blockMoves 65537 (beginScan base mask s)).resp =
      (blockMoves 65536 (beginScan base mask s)).resp ++ xs ++ [.done]

/-- The scan lists the run list of ANY predicate, one of single addresses or of none among them (R66, R68, C10). The number of moves is the reference scan's (log 7). -/
def Obligations.ScanListsRunsOfAnyPredicate : Prop :=
  ∀ (f : Port → Bool) (base mask : Port) (s : State), ∃ rs : List Run,
    IsRunList f rs ∧
    (blockMovesBy f 65537 (beginScan base mask s)).resp = s.resp ++ rs.map .run ++ [.done]

/-- A run opened at `0xFFFF` alone is emitted by the finish as the degenerate run (R68). The number of moves is the reference scan's (log 7). -/
def Obligations.TopAddressAloneIsEmitted : Prop :=
  ∀ (base mask : Port) (s : State),
    (blockMovesBy (fun p => p == 0xFFFF#16) 65537 (beginScan base mask s)).resp =
      s.resp ++ [.run ⟨0xFFFF#16, 0xFFFF#16⟩, .done]

/-- The three properties fix the run list (R65). -/
def Obligations.RunListIsUnique : Prop :=
  ∀ (f : Port → Bool) (rs qs : List Run), IsRunList f rs → IsRunList f qs → rs = qs

/-- For any values of the constants the closed form is the run list (41_portset.md section 3: the spec's own inference from R63 and R64). -/
def Obligations.ClosedFormIsTheRunList : Prop :=
  ∀ (k : Config) (base mask : Port), IsRunList (portMatches k base mask) (closedRuns k base mask)

/-- Counts of a run list: `2^(n-k)` runs of `2^k` addresses each, with `n = popcount(em)` and `k = tones(em)`, at least 1 and at most 8192 (41_portset.md section 3: the spec's own inference). -/
def Obligations.RunListCounts : Prop :=
  ∀ (base mask : Port) (rs : List Run), IsRunList (portMatches Config.printed base mask) rs →
    rs.length = 2 ^ (popcount (effMask Config.printed mask) - tones (effMask Config.printed mask)) ∧
    1 ≤ rs.length ∧ rs.length ≤ Config.printed.maxRuns ∧
    ∀ r ∈ rs, r.endPort.toNat + 1 = r.startPort.toNat + 2 ^ tones (effMask Config.printed mask)

/-- No run is a single address: each starts at a multiple of four and ends three above one; the first starts at `base & ~em`, the last ends at `base | em` (41_portset.md sections 2 and 3: the spec's own inferences). -/
def Obligations.RunsAreWholeGroupsOfFour : Prop :=
  ∀ (base mask : Port) (rs : List Run), IsRunList (portMatches Config.printed base mask) rs →
    (∀ r ∈ rs, r.startPort.extractLsb' 0 2 = 0#2 ∧ r.endPort.extractLsb' 0 2 = 3#2) ∧
    rs.head?.map Run.startPort = some (base &&& ~~~(mask ||| 3#16)) ∧
    rs.getLast?.map Run.endPort = some (base ||| (mask ||| 3#16))

/-- EXPAND is a pure function of its range: the records depend on nothing but the operands, not on the bits of `base` under the effective mask, nor on bits 1:0 of `mask` (R73, R95; that those bits do not matter is the spec's own inference, 41_portset.md section 3; the number of moves is the reference scan's, log 7). -/
def Obligations.ExpandIsAPureFunctionOfTheRange : Prop :=
  ∀ base mask : Port, ∃ recs : List Record, ∀ s : State,
    (blockMoves 65537 (beginScan base mask s)).resp = s.resp ++ recs ∧
    (blockMoves 65537 (beginScan (base &&& ~~~(mask ||| 3#16)) mask s)).resp = s.resp ++ recs ∧
    (blockMoves 65537 (beginScan (base ||| (mask ||| 3#16)) mask s)).resp = s.resp ++ recs ∧
    (blockMoves 65537 (beginScan base (mask ||| 3#16) s)).resp = s.resp ++ recs

/-! ### Operations as a whole -/

/-- ENCLPC, DECLPC, ENCISA and MATCH answer with exactly one record, which is a function of the operands alone, from every state (R19, R57). -/
def Obligations.CombinationalOperationsReadNoState : Prop :=
  ∀ i : Instr, (∀ base mask, i ≠ .expand base mask) →
    ∃ r : Record, ∀ s : State, exec i s = .next { s with resp := s.resp ++ [r] }

/-- What every operation leaves unchanged: the host, the platform registers, the command port, the reset input, the records already placed; for ENCLPC, DECLPC, ENCISA and MATCH every register of the block; for EXPAND, START, LAST and the response port (R22, R44, R52, R53, R54, R63, R66). -/
def Obligations.FrameOfEveryOperation : Prop :=
  ∀ (i : Instr) (s t : State), exec i s = .next t →
    SameHost s t ∧ SamePlatform s t ∧ t.cmd = s.cmd ∧ t.resetIn = s.resetIn ∧
    (∃ xs, t.resp = s.resp ++ xs) ∧
    match i with
    | .enclpc _ _ => SameBlock s t
    | .declpc _ => SameBlock s t
    | .encisa _ _ => SameBlock s t
    | .matchPort _ _ _ => SameBlock s t
    | .expand _ _ => t.runStart = s.runStart ∧ t.runLast = s.runLast ∧ t.resp = s.resp

/-- No operation faults or is refused: every operation answers a next state, from every state (R57, R82). -/
def Obligations.EveryOperationAnswers : Prop :=
  ∀ (i : Instr) (s : State), ∃ t, exec i s = .next t

/-! ### The command port and reset -/

/-- A step runs the decoded operation: a command that decodes, presented to a ready port, is accepted and runs as `exec` of what it decodes to (R38). That the command has then left the command port is the model's (log 11), and so is the reset input, which comes first where it is asserted and else counts down (log 6). -/
def Obligations.StepRunsTheDecodedCommand : Prop :=
  ∀ (s : State) (c : Command) (i : Instr),
    s.cmd = some c → s.busy = false → s.resetIn ≠ some 0 → decode c = .ok i →
    step s = exec i { tickReset s with cmd := none }

/-- A command presented while `BUSY` is not lost and not executed: it stays presented through every step, no move of the block depends on it, and the step is the block's move (R38; that it survives a reset is the model's, log 24). -/
def Obligations.PresentedCommandWaitsWhileBusy : Prop :=
  (∀ (prog : List HostAction) (s t : State) (c : Command),
    s.cmd = some c → s.busy = true → advance prog s = .next t → t.cmd = some c) ∧
  (∀ (s : State) (c : Option Command), blockMove { s with cmd := c } = { blockMove s with cmd := c }) ∧
  (∀ (prog : List HostAction) (s : State), s.busy = true → s.resetIn = none →
    advance prog s = .next (blockMove s))

/-- A reserved code presented to a ready port is refused by name, whatever the other fields hold: the model's refusal, as R46 and R83 direct (log 10). The reset input comes first (log 6). -/
def Obligations.ReservedCommandIsRefused : Prop :=
  ∀ (prog : List HostAction) (s : State) (c : Command),
    s.cmd = some c → s.busy = false → s.resetIn ≠ some 0 → 5 ≤ (opField c).toNat →
    advance prog s = .refused (.reservedOp (opField c))

/-- While the block is idle, no command is presented, no reset is due and the host has nothing to do, nothing happens (R21). -/
def Obligations.IdleBlockExecutesNothing : Prop :=
  ∀ (prog : List HostAction) (s : State),
    s.cmd = none → s.busy = false → s.resetIn = none → nextAction prog s = none →
    advance prog s = .next s

/-- The reset values R21 gives: `BUSY`, `OPEN`, `P`, an empty response port, a ready command port. The last clause, that no command is presented, is the model's choice (log 1). -/
def Obligations.ResetValuesOfTheBlock : Prop :=
  State.reset.busy = false ∧ State.reset.runOpen = false ∧ State.reset.scanP = 0#17 ∧
  State.reset.resp = [] ∧ cmdReady State.reset = true ∧ State.reset.cmd = none

/-- The reset input, asserted at any moment, an EXPAND in flight or a command at the port included: the block takes the reset values of R21 and places no further record of an abandoned EXPAND, being idle with the response port empty, and the platform registers keep their contents (R94). The rest is the model's: the input comes before every other event and is then released (log 6); a command at the port stays presented (log 24); of the host's part only the runs gathered so far are dropped, every other variable and all else the host holds staying as it was (log 23). -/
def Obligations.ResetAbandonsAnExpansion : Prop :=
  ∀ (prog : List HostAction) (s : State), s.resetIn = some 0 →
    ∃ t, advance prog s = .next t ∧
      t.busy = false ∧ t.runOpen = false ∧ t.scanP = 0#17 ∧ t.resp = [] ∧ cmdReady t = true ∧
      blockMove t = t ∧ t.resetIn = none ∧
      SamePlatform s t ∧ t.cmd = s.cmd ∧ t.received = s.received ∧ t.shown = s.shown ∧
      t.writes = s.writes ∧ t.hostPos = s.hostPos ∧ t.pending = s.pending ∧
      t.vars = { s.vars with gathering := [] }

/-! ### The response port -/

/-- Records are handed to the host in the order placed, none dropped, none duplicated: a step only adds at the end of what was taken and what waits, except a reset, which empties the port (R44, R21). -/
def Obligations.RecordsAreDeliveredInOrder : Prop :=
  ∀ (prog : List HostAction) (s t : State), advance prog s = .next t →
    (∃ xs, t.received ++ t.resp = s.received ++ s.resp ++ xs) ∨
    (s.resetIn = some 0 ∧ t.received = s.received ∧ t.resp = [])

/-- While an EXPAND is in flight no record of another operation comes between its own: a step adds nothing but RUN and DONE, unless it is a reset (R67). -/
def Obligations.OnlyRunsAndDoneWhileBusy : Prop :=
  ∀ (prog : List HostAction) (s t : State), s.busy = true → advance prog s = .next t →
    (∃ xs, t.received ++ t.resp = s.received ++ s.resp ++ xs ∧ ∀ x ∈ xs, x = .done ∨ ∃ r, x = .run r) ∨
    s.resetIn = some 0

/-! ### Invariants and whole-machine rules -/

/-- The invariant holds at reset (R21). -/
def Obligations.InvariantHoldsAtReset : Prop := State.reset.Inv

/-- Every step keeps the invariant, whatever program the host runs: `P` never passes `0x10000`, a run is open only while busy and lies below `P`, it holds matches of the latched range only, and every record is well formed (R14, R15, R43, R66). -/
def Obligations.EveryStepKeepsTheInvariant : Prop :=
  (∀ s t : State, s.Inv → step s = .next t → t.Inv) ∧
  (∀ (prog : List HostAction) (s t : State), s.Inv → advance prog s = .next t → t.Inv)

/-- A step never faults (R82), and stops in exactly three cases: a reserved command accepted (R46), `PROGW` outside 0 to 3 (R76), and a number of ranges outside 1 to 4, 4 being the default. That the last is a refusal is the model's (log 12: R77 gives the bounds and no refusal); so is whose turn it is, the reset input first, then the block, then the host (log 5). -/
def Obligations.StepStopsOnlyWhere : Prop :=
  ∀ (prog : List HostAction) (s : State),
    (∀ r, advance prog s ≠ .fault r) ∧
    ∀ r, advance prog s = .refused r ↔
      s.resetIn ≠ some 0 ∧ s.busy = false ∧
      ((∃ c, s.cmd = some c ∧ 5 ≤ (opField c).toNat ∧ r = .reservedOp (opField c)) ∨
       (s.cmd = none ∧
        ((∃ i base mask, nextAction prog s = some (.progw i base mask) ∧ 4 ≤ i ∧ r = .noSuchWindow i) ∨
         (∃ numRanges ranges, nextAction prog s = some (.programWindows numRanges ranges) ∧
            (numRanges.getD 4 = 0 ∨ 5 ≤ numRanges.getD 4) ∧
            r = .numRangesOutOfRange (numRanges.getD 4)))))

/-- Only the host's own two writes reach the platform: a step that is neither leaves every platform register and the list of writes alone (R17, R22), and no write is made while a command is presented or in flight (R31). That no step changes the launch premise of R96 is the model's choice (log 4). -/
def Obligations.OnlyHostWritesReachThePlatform : Prop :=
  ∀ (prog : List HostAction) (s t : State), advance prog s = .next t →
    t.bridgeReady = s.bridgeReady ∧
    ((SamePlatform s t ∧ t.writes = s.writes) ∨
     (s.cmd = none ∧ s.busy = false ∧
      ((∃ i, nextAction prog s = some (.writeLpc i) ∧ t.isaWin = s.isaWin) ∨
       (∃ i which, nextAction prog s = some (.writeIsa i which) ∧
          t.lpcWin = s.lpcWin ∧ t.cfgAddr = s.cfgAddr))))

/-! ### The window sequence -/

/-- The window map, row by row (the table of R28, its order the spec's decision D17, log 15); that its twelve indices are distinct is the spec's own inference. -/
def Obligations.WindowMapRows : Prop :=
  (Config.printed.lpcGenericDecode.get 0 = 0x8000F884#32 ∧ isaIndex Config.printed 0 .mask = 0x20#8 ∧
    isaIndex Config.printed 0 .low = 0x21#8 ∧ isaIndex Config.printed 0 .high = 0x22#8) ∧
  (Config.printed.lpcGenericDecode.get 1 = 0x8000F888#32 ∧ isaIndex Config.printed 1 .mask = 0x23#8 ∧
    isaIndex Config.printed 1 .low = 0x24#8 ∧ isaIndex Config.printed 1 .high = 0x25#8) ∧
  (Config.printed.lpcGenericDecode.get 2 = 0x8000F88C#32 ∧ isaIndex Config.printed 2 .mask = 0x30#8 ∧
    isaIndex Config.printed 2 .low = 0x31#8 ∧ isaIndex Config.printed 2 .high = 0x32#8) ∧
  (Config.printed.lpcGenericDecode.get 3 = 0x8000F890#32 ∧ isaIndex Config.printed 3 .mask = 0x33#8 ∧
    isaIndex Config.printed 3 .low = 0x34#8 ∧ isaIndex Config.printed 3 .high = 0x35#8) ∧
  (∀ i j a b, isaIndex Config.printed i a = isaIndex Config.printed j b → i = j ∧ a = b)

/-- The LPC write of window `i`: its register takes the word, the configuration-address register is left at its address, the event is recorded, every other window, the bridge, the block and the host's variables are unchanged (R76, R80). Whose turn it is: log 5; that it is so in whatever order the windows are written: log 29. -/
def Obligations.LpcWriteSetsOneWindow : Prop :=
  ∀ (prog : List HostAction) (s : State) (i : Fin 4),
    s.cmd = none → s.busy = false → s.resetIn ≠ some 0 → nextAction prog s = some (.writeLpc i) →
    ∃ t, advance prog s = .next t ∧ t.lpcWin.get i = s.vars.word ∧
      (∀ j, j ≠ i → t.lpcWin.get j = s.lpcWin.get j) ∧
      t.cfgAddr = 0x8000F884#32 + 4#32 * BitVec.ofNat 32 i.val ∧
      t.writes = s.writes ++ [.cfg32 (0x8000F884#32 + 4#32 * BitVec.ofNat 32 i.val) s.vars.word] ∧
      t.isaWin = s.isaWin ∧ t.bridgeReady = s.bridgeReady ∧ SameBlock s t ∧ t.resp = s.resp ∧
      t.cmd = none ∧ t.received = s.received ∧ t.vars = s.vars ∧ t.shown = s.shown ∧
      t.pending = (dequeueAction s).pending ∧ t.hostPos = (dequeueAction s).hostPos

/-- An ISA byte write: where the bridge accepts `IdxWrite8`, one register of one window takes the byte and no other register, of the bridge, the LPC controller or the block, changes (R76, R96). That a write the bridge does not accept changes no register and is recorded all the same is the model's (log 13). Whose turn it is: log 5; that it is so in whatever order the windows are written: log 29. -/
def Obligations.IsaWriteSetsOneRegister : Prop :=
  ∀ (prog : List HostAction) (s : State) (i : Fin 4) (which : IsaByte),
    s.cmd = none → s.busy = false → s.resetIn ≠ some 0 → nextAction prog s = some (.writeIsa i which) →
    ∃ t, advance prog s = .next t ∧
      (s.bridgeReady = false → t.isaWin = s.isaWin) ∧
      (s.bridgeReady = true →
        t.isaWin.get i = (s.isaWin.get i).write which (isaValue s.vars which) ∧
        ∀ j, j ≠ i → t.isaWin.get j = s.isaWin.get j) ∧
      t.writes = s.writes ++ [.idx8 (isaIndex Config.printed i which) (isaValue s.vars which)] ∧
      t.lpcWin = s.lpcWin ∧ t.cfgAddr = s.cfgAddr ∧ t.bridgeReady = s.bridgeReady ∧
      SameBlock s t ∧ t.resp = s.resp ∧
      t.cmd = none ∧ t.received = s.received ∧ t.vars = s.vars ∧ t.shown = s.shown ∧
      t.pending = (dequeueAction s).pending ∧ t.hostPos = (dequeueAction s).hostPos

/-- PROGW from a quiet state ends, and then: the four writes were made in R76's order, the operator was shown the word and the text of the run list, window `i` of both chips holds the two encodings, every other window is unchanged, the configuration-address register holds the address of the window written, and the host stands after PROGW in its program (R76, R79, R80). -/
def Obligations.ProgwProgramsOneWindow : Prop :=
  ∀ (prog : List HostAction) (s : State) (i : Fin 4) (base mask : Port),
    s.Quiet → s.bridgeReady = true → nextAction prog s = some (.progw i.val base mask) →
    ∃ (t : State) (rs : List Run), LeadsTo prog s t ∧ t.Quiet ∧
      t.pending = (dequeueAction s).pending ∧ t.hostPos = (dequeueAction s).hostPos ∧
      IsRunList (portMatches Config.printed base mask) rs ∧
      t.writes = s.writes ++ windowWrites i base mask ∧
      t.shown = s.shown ++ [⟨encLpc Config.printed base mask, textRuns rs⟩] ∧
      t.lpcWin = s.lpcWin.set i (encLpc Config.printed base mask) ∧
      t.isaWin = s.isaWin.set i
        ⟨isaMask Config.printed mask, isaLow base, isaHigh base⟩ ∧
      t.cfgAddr = Config.printed.lpcGenericDecode.get i ∧ t.bridgeReady = true

/-- Programming `n` ranges, 1 to 4 and by default 4, from a quiet state ends having made exactly the four writes of each window, in window order; the windows below `n` hold the encodings of their ranges and the others are unchanged (R77). -/
def Obligations.ProgramWindowsInOrder : Prop :=
  ∀ (prog : List HostAction) (s : State) (numRanges : Option Nat) (ranges : PerWindow DecodeRange),
    s.Quiet → s.bridgeReady = true → 1 ≤ numRanges.getD 4 → numRanges.getD 4 ≤ 4 →
    nextAction prog s = some (.programWindows numRanges ranges) →
    ∃ t : State, LeadsTo prog s t ∧ t.Quiet ∧
      t.pending = (dequeueAction s).pending ∧ t.hostPos = (dequeueAction s).hostPos ∧
      t.writes = s.writes ++ programWrites (numRanges.getD 4) ranges ∧
      (programWrites (numRanges.getD 4) ranges).length = 4 * numRanges.getD 4 ∧
      ∀ j : Fin 4,
        if j.val < numRanges.getD 4 then
          t.lpcWin.get j = encLpc Config.printed (ranges.get j).base (ranges.get j).mask ∧
          t.isaWin.get j = ⟨isaMask Config.printed (ranges.get j).mask,
            isaLow (ranges.get j).base, isaHigh (ranges.get j).base⟩
        else t.lpcWin.get j = s.lpcWin.get j ∧ t.isaWin.get j = s.isaWin.get j

/-! ### Text -/

/-- `Hex(v)`: its digits read back to the value, there are at most four, and the first is `0` only for 0 (R72). -/
def Obligations.HexTextReadsBack : Prop :=
  ∀ v : Port,
    hexNumber 0 (hexPort v) = some v.toNat ∧ 1 ≤ (hexPort v).length ∧ (hexPort v).length ≤ 4 ∧
    ((hexPort v).head? = some '0' ↔ v = 0#16)

/-- The assembler reads back the line printed for an operation, as the presentation of its command (R49; the lexical form is the model's choice, log 19). -/
def Obligations.AssemblerReadsPrintedLine : Prop :=
  ∀ i : Instr, assembleLine (printInstr i) = some [.present (encode i)]

/-! ### The two agents -/

/-- From the presentation of a command to its last record the host does nothing: the step is the same whatever program the host runs, and leaves the host's part and the platform registers alone
(R8, R31; that only a reset comes between is the model's, log 6). -/
def Obligations.HostActsOnlyBetweenOperations : Prop :=
  ∀ s : State, s.resetIn ≠ some 0 → (s.busy = true ∨ s.cmd ≠ none) →
    (∀ prog prog' : List HostAction, advance prog s = advance prog' s) ∧
    (∀ (prog : List HostAction) (t : State), advance prog s = .next t → SameHost s t ∧ SamePlatform s t)
end

