-- ==== Sys2Proof/Laws/Decode.lean ====
section
/-! SUPPORT. The decoder's answer for each operation code, and the fields of a command made of four fields. -/

namespace Sys2Proof.Laws

open Sys2Proof Sys2Proof.Machine

/-! ### The fields of a command (R37) -/

@[simp] theorem opField_mkCommand (op : BitVec 3) (p mask base : Port) :
    opField (mkCommand op p mask base) = op := by
  ext i hi
  simp only [opField, mkCommand, BitVec.getElem_extractLsb', BitVec.getLsbD_append]
  rw [if_neg (by omega), if_neg (by omega), if_neg (by omega), BitVec.getLsbD_eq_getElem (by omega)]
  congr 1; omega

@[simp] theorem pField_mkCommand (op : BitVec 3) (p mask base : Port) :
    pField (mkCommand op p mask base) = p := by
  ext i hi
  simp only [pField, mkCommand, BitVec.getElem_extractLsb', BitVec.getLsbD_append]
  rw [if_neg (by omega), if_neg (by omega), if_pos (by omega), BitVec.getLsbD_eq_getElem (by omega)]
  congr 1; omega

@[simp] theorem maskField_mkCommand (op : BitVec 3) (p mask base : Port) :
    maskField (mkCommand op p mask base) = mask := by
  ext i hi
  simp only [maskField, mkCommand, BitVec.getElem_extractLsb', BitVec.getLsbD_append]
  rw [if_neg (by omega), if_pos (by omega), BitVec.getLsbD_eq_getElem (by omega)]
  congr 1; omega

@[simp] theorem baseField_mkCommand (op : BitVec 3) (p mask base : Port) :
    baseField (mkCommand op p mask base) = base := by
  ext i hi
  simp only [baseField, mkCommand, BitVec.getElem_extractLsb', BitVec.getLsbD_append]
  rw [if_pos (by omega), BitVec.getLsbD_eq_getElem (by omega)]
  congr 1; omega

/-! ### The decoder, code by code (R39) -/

theorem decode_enclpc {c : Command} (h : opField c = 0#3) :
    decode c = .ok (.enclpc (baseField c) (maskField c)) := by simp [decode, h]

theorem decode_declpc {c : Command} (h : opField c = 1#3) :
    decode c = .ok (.declpc (wordField c)) := by simp [decode, h]

theorem decode_encisa {c : Command} (h : opField c = 2#3) :
    decode c = .ok (.encisa (baseField c) (maskField c)) := by simp [decode, h]

theorem decode_matchPort {c : Command} (h : opField c = 3#3) :
    decode c = .ok (.matchPort (baseField c) (maskField c) (pField c)) := by simp [decode, h]

theorem decode_expand {c : Command} (h : opField c = 4#3) :
    decode c = .ok (.expand (baseField c) (maskField c)) := by simp [decode, h]

theorem decode_reserved {c : Command} (h : 5 ≤ (opField c).toNat) :
    decode c = .error (.reservedOp (opField c)) := by
  simp only [decode]
  split <;> first | omega | rfl

end Sys2Proof.Laws
end

