-- ==== Sys2Proof/Laws/State.lean ====
section
/-! SUPPORT. One lemma per field per update of the state: what each shared operation writes and what it leaves. -/

namespace Sys2Proof.Laws

open Sys2Proof Sys2Proof.Machine

variable (s : State)

/-! ### respond -/

@[simp] theorem respond_latchB (r : Record) : (respond r s).latchB = s.latchB := rfl
@[simp] theorem respond_latchM (r : Record) : (respond r s).latchM = s.latchM := rfl
@[simp] theorem respond_scanP (r : Record) : (respond r s).scanP = s.scanP := rfl
@[simp] theorem respond_runOpen (r : Record) : (respond r s).runOpen = s.runOpen := rfl
@[simp] theorem respond_runStart (r : Record) : (respond r s).runStart = s.runStart := rfl
@[simp] theorem respond_runLast (r : Record) : (respond r s).runLast = s.runLast := rfl
@[simp] theorem respond_busy (r : Record) : (respond r s).busy = s.busy := rfl
@[simp] theorem respond_resp (r : Record) : (respond r s).resp = s.resp ++ [r] := rfl
@[simp] theorem respond_cmd (r : Record) : (respond r s).cmd = s.cmd := rfl
@[simp] theorem respond_resetIn (r : Record) : (respond r s).resetIn = s.resetIn := rfl
@[simp] theorem respond_hostPos (r : Record) : (respond r s).hostPos = s.hostPos := rfl
@[simp] theorem respond_pending (r : Record) : (respond r s).pending = s.pending := rfl
@[simp] theorem respond_received (r : Record) : (respond r s).received = s.received := rfl
@[simp] theorem respond_vars (r : Record) : (respond r s).vars = s.vars := rfl
@[simp] theorem respond_shown (r : Record) : (respond r s).shown = s.shown := rfl
@[simp] theorem respond_writes (r : Record) : (respond r s).writes = s.writes := rfl
@[simp] theorem respond_bridgeReady (r : Record) : (respond r s).bridgeReady = s.bridgeReady := rfl
@[simp] theorem respond_cfgAddr (r : Record) : (respond r s).cfgAddr = s.cfgAddr := rfl
@[simp] theorem respond_lpcWin (r : Record) : (respond r s).lpcWin = s.lpcWin := rfl
@[simp] theorem respond_isaWin (r : Record) : (respond r s).isaWin = s.isaWin := rfl

/-! ### beginScan -/

@[simp] theorem beginScan_latchB (base mask : Port) : (beginScan base mask s).latchB = base := rfl
@[simp] theorem beginScan_latchM (base mask : Port) : (beginScan base mask s).latchM = mask := rfl
@[simp] theorem beginScan_scanP (base mask : Port) : (beginScan base mask s).scanP = 0#17 := rfl
@[simp] theorem beginScan_runOpen (base mask : Port) : (beginScan base mask s).runOpen = false := rfl
@[simp] theorem beginScan_runStart (base mask : Port) : (beginScan base mask s).runStart = s.runStart := rfl
@[simp] theorem beginScan_runLast (base mask : Port) : (beginScan base mask s).runLast = s.runLast := rfl
@[simp] theorem beginScan_busy (base mask : Port) : (beginScan base mask s).busy = true := rfl
@[simp] theorem beginScan_resp (base mask : Port) : (beginScan base mask s).resp = s.resp := rfl
@[simp] theorem beginScan_cmd (base mask : Port) : (beginScan base mask s).cmd = s.cmd := rfl
@[simp] theorem beginScan_resetIn (base mask : Port) : (beginScan base mask s).resetIn = s.resetIn := rfl
@[simp] theorem beginScan_hostPos (base mask : Port) : (beginScan base mask s).hostPos = s.hostPos := rfl
@[simp] theorem beginScan_pending (base mask : Port) : (beginScan base mask s).pending = s.pending := rfl
@[simp] theorem beginScan_received (base mask : Port) : (beginScan base mask s).received = s.received := rfl
@[simp] theorem beginScan_vars (base mask : Port) : (beginScan base mask s).vars = s.vars := rfl
@[simp] theorem beginScan_shown (base mask : Port) : (beginScan base mask s).shown = s.shown := rfl
@[simp] theorem beginScan_writes (base mask : Port) : (beginScan base mask s).writes = s.writes := rfl
@[simp] theorem beginScan_bridgeReady (base mask : Port) : (beginScan base mask s).bridgeReady = s.bridgeReady := rfl
@[simp] theorem beginScan_cfgAddr (base mask : Port) : (beginScan base mask s).cfgAddr = s.cfgAddr := rfl
@[simp] theorem beginScan_lpcWin (base mask : Port) : (beginScan base mask s).lpcWin = s.lpcWin := rfl
@[simp] theorem beginScan_isaWin (base mask : Port) : (beginScan base mask s).isaWin = s.isaWin := rfl

/-! ### openRunAt -/

@[simp] theorem openRunAt_latchB (p : Port) : (openRunAt p s).latchB = s.latchB := rfl
@[simp] theorem openRunAt_latchM (p : Port) : (openRunAt p s).latchM = s.latchM := rfl
@[simp] theorem openRunAt_scanP (p : Port) : (openRunAt p s).scanP = s.scanP := rfl
@[simp] theorem openRunAt_runOpen (p : Port) : (openRunAt p s).runOpen = true := rfl
@[simp] theorem openRunAt_runStart (p : Port) : (openRunAt p s).runStart = p := rfl
@[simp] theorem openRunAt_runLast (p : Port) : (openRunAt p s).runLast = p := rfl
@[simp] theorem openRunAt_busy (p : Port) : (openRunAt p s).busy = s.busy := rfl
@[simp] theorem openRunAt_resp (p : Port) : (openRunAt p s).resp = s.resp := rfl
@[simp] theorem openRunAt_cmd (p : Port) : (openRunAt p s).cmd = s.cmd := rfl
@[simp] theorem openRunAt_resetIn (p : Port) : (openRunAt p s).resetIn = s.resetIn := rfl
@[simp] theorem openRunAt_hostPos (p : Port) : (openRunAt p s).hostPos = s.hostPos := rfl
@[simp] theorem openRunAt_pending (p : Port) : (openRunAt p s).pending = s.pending := rfl
@[simp] theorem openRunAt_received (p : Port) : (openRunAt p s).received = s.received := rfl
@[simp] theorem openRunAt_vars (p : Port) : (openRunAt p s).vars = s.vars := rfl
@[simp] theorem openRunAt_shown (p : Port) : (openRunAt p s).shown = s.shown := rfl
@[simp] theorem openRunAt_writes (p : Port) : (openRunAt p s).writes = s.writes := rfl
@[simp] theorem openRunAt_bridgeReady (p : Port) : (openRunAt p s).bridgeReady = s.bridgeReady := rfl
@[simp] theorem openRunAt_cfgAddr (p : Port) : (openRunAt p s).cfgAddr = s.cfgAddr := rfl
@[simp] theorem openRunAt_lpcWin (p : Port) : (openRunAt p s).lpcWin = s.lpcWin := rfl
@[simp] theorem openRunAt_isaWin (p : Port) : (openRunAt p s).isaWin = s.isaWin := rfl

/-! ### resetBlock -/

@[simp] theorem resetBlock_latchB : (resetBlock s).latchB = resetLatch := rfl
@[simp] theorem resetBlock_latchM : (resetBlock s).latchM = resetLatch := rfl
@[simp] theorem resetBlock_scanP : (resetBlock s).scanP = 0#17 := rfl
@[simp] theorem resetBlock_runOpen : (resetBlock s).runOpen = false := rfl
@[simp] theorem resetBlock_runStart : (resetBlock s).runStart = resetLatch := rfl
@[simp] theorem resetBlock_runLast : (resetBlock s).runLast = resetLatch := rfl
@[simp] theorem resetBlock_busy : (resetBlock s).busy = false := rfl
@[simp] theorem resetBlock_resp : (resetBlock s).resp = [] := rfl
@[simp] theorem resetBlock_cmd : (resetBlock s).cmd = s.cmd := rfl
@[simp] theorem resetBlock_resetIn : (resetBlock s).resetIn = s.resetIn := rfl
@[simp] theorem resetBlock_hostPos : (resetBlock s).hostPos = s.hostPos := rfl
@[simp] theorem resetBlock_pending : (resetBlock s).pending = s.pending := rfl
@[simp] theorem resetBlock_received : (resetBlock s).received = s.received := rfl
@[simp] theorem resetBlock_vars : (resetBlock s).vars = s.vars := rfl
@[simp] theorem resetBlock_shown : (resetBlock s).shown = s.shown := rfl
@[simp] theorem resetBlock_writes : (resetBlock s).writes = s.writes := rfl
@[simp] theorem resetBlock_bridgeReady : (resetBlock s).bridgeReady = s.bridgeReady := rfl
@[simp] theorem resetBlock_cfgAddr : (resetBlock s).cfgAddr = s.cfgAddr := rfl
@[simp] theorem resetBlock_lpcWin : (resetBlock s).lpcWin = s.lpcWin := rfl
@[simp] theorem resetBlock_isaWin : (resetBlock s).isaWin = s.isaWin := rfl

/-! ### takeRecord -/

@[simp] theorem takeRecord_latchB (r : Record) (rest : List Record) : (takeRecord r rest s).latchB = s.latchB := rfl
@[simp] theorem takeRecord_latchM (r : Record) (rest : List Record) : (takeRecord r rest s).latchM = s.latchM := rfl
@[simp] theorem takeRecord_scanP (r : Record) (rest : List Record) : (takeRecord r rest s).scanP = s.scanP := rfl
@[simp] theorem takeRecord_runOpen (r : Record) (rest : List Record) : (takeRecord r rest s).runOpen = s.runOpen := rfl
@[simp] theorem takeRecord_runStart (r : Record) (rest : List Record) : (takeRecord r rest s).runStart = s.runStart := rfl
@[simp] theorem takeRecord_runLast (r : Record) (rest : List Record) : (takeRecord r rest s).runLast = s.runLast := rfl
@[simp] theorem takeRecord_busy (r : Record) (rest : List Record) : (takeRecord r rest s).busy = s.busy := rfl
@[simp] theorem takeRecord_resp (r : Record) (rest : List Record) : (takeRecord r rest s).resp = rest := rfl
@[simp] theorem takeRecord_cmd (r : Record) (rest : List Record) : (takeRecord r rest s).cmd = s.cmd := rfl
@[simp] theorem takeRecord_resetIn (r : Record) (rest : List Record) : (takeRecord r rest s).resetIn = s.resetIn := rfl
@[simp] theorem takeRecord_hostPos (r : Record) (rest : List Record) : (takeRecord r rest s).hostPos = s.hostPos := rfl
@[simp] theorem takeRecord_pending (r : Record) (rest : List Record) : (takeRecord r rest s).pending = s.pending := rfl
@[simp] theorem takeRecord_received (r : Record) (rest : List Record) : (takeRecord r rest s).received = s.received ++ [r] := rfl
@[simp] theorem takeRecord_vars (r : Record) (rest : List Record) : (takeRecord r rest s).vars = s.vars.receive r := rfl
@[simp] theorem takeRecord_shown (r : Record) (rest : List Record) : (takeRecord r rest s).shown = s.shown := rfl
@[simp] theorem takeRecord_writes (r : Record) (rest : List Record) : (takeRecord r rest s).writes = s.writes := rfl
@[simp] theorem takeRecord_bridgeReady (r : Record) (rest : List Record) : (takeRecord r rest s).bridgeReady = s.bridgeReady := rfl
@[simp] theorem takeRecord_cfgAddr (r : Record) (rest : List Record) : (takeRecord r rest s).cfgAddr = s.cfgAddr := rfl
@[simp] theorem takeRecord_lpcWin (r : Record) (rest : List Record) : (takeRecord r rest s).lpcWin = s.lpcWin := rfl
@[simp] theorem takeRecord_isaWin (r : Record) (rest : List Record) : (takeRecord r rest s).isaWin = s.isaWin := rfl

/-! ### pushActions -/

@[simp] theorem pushActions_latchB (acts : List HostAction) : (pushActions acts s).latchB = s.latchB := rfl
@[simp] theorem pushActions_latchM (acts : List HostAction) : (pushActions acts s).latchM = s.latchM := rfl
@[simp] theorem pushActions_scanP (acts : List HostAction) : (pushActions acts s).scanP = s.scanP := rfl
@[simp] theorem pushActions_runOpen (acts : List HostAction) : (pushActions acts s).runOpen = s.runOpen := rfl
@[simp] theorem pushActions_runStart (acts : List HostAction) : (pushActions acts s).runStart = s.runStart := rfl
@[simp] theorem pushActions_runLast (acts : List HostAction) : (pushActions acts s).runLast = s.runLast := rfl
@[simp] theorem pushActions_busy (acts : List HostAction) : (pushActions acts s).busy = s.busy := rfl
@[simp] theorem pushActions_resp (acts : List HostAction) : (pushActions acts s).resp = s.resp := rfl
@[simp] theorem pushActions_cmd (acts : List HostAction) : (pushActions acts s).cmd = s.cmd := rfl
@[simp] theorem pushActions_resetIn (acts : List HostAction) : (pushActions acts s).resetIn = s.resetIn := rfl
@[simp] theorem pushActions_hostPos (acts : List HostAction) : (pushActions acts s).hostPos = s.hostPos := rfl
@[simp] theorem pushActions_pending (acts : List HostAction) : (pushActions acts s).pending = acts ++ s.pending := rfl
@[simp] theorem pushActions_received (acts : List HostAction) : (pushActions acts s).received = s.received := rfl
@[simp] theorem pushActions_vars (acts : List HostAction) : (pushActions acts s).vars = s.vars := rfl
@[simp] theorem pushActions_shown (acts : List HostAction) : (pushActions acts s).shown = s.shown := rfl
@[simp] theorem pushActions_writes (acts : List HostAction) : (pushActions acts s).writes = s.writes := rfl
@[simp] theorem pushActions_bridgeReady (acts : List HostAction) : (pushActions acts s).bridgeReady = s.bridgeReady := rfl
@[simp] theorem pushActions_cfgAddr (acts : List HostAction) : (pushActions acts s).cfgAddr = s.cfgAddr := rfl
@[simp] theorem pushActions_lpcWin (acts : List HostAction) : (pushActions acts s).lpcWin = s.lpcWin := rfl
@[simp] theorem pushActions_isaWin (acts : List HostAction) : (pushActions acts s).isaWin = s.isaWin := rfl

/-! ### tickReset -/

@[simp] theorem tickReset_latchB : (tickReset s).latchB = s.latchB := rfl
@[simp] theorem tickReset_latchM : (tickReset s).latchM = s.latchM := rfl
@[simp] theorem tickReset_scanP : (tickReset s).scanP = s.scanP := rfl
@[simp] theorem tickReset_runOpen : (tickReset s).runOpen = s.runOpen := rfl
@[simp] theorem tickReset_runStart : (tickReset s).runStart = s.runStart := rfl
@[simp] theorem tickReset_runLast : (tickReset s).runLast = s.runLast := rfl
@[simp] theorem tickReset_busy : (tickReset s).busy = s.busy := rfl
@[simp] theorem tickReset_resp : (tickReset s).resp = s.resp := rfl
@[simp] theorem tickReset_cmd : (tickReset s).cmd = s.cmd := rfl
@[simp] theorem tickReset_resetIn : (tickReset s).resetIn = s.resetIn.map (· - 1) := rfl
@[simp] theorem tickReset_hostPos : (tickReset s).hostPos = s.hostPos := rfl
@[simp] theorem tickReset_pending : (tickReset s).pending = s.pending := rfl
@[simp] theorem tickReset_received : (tickReset s).received = s.received := rfl
@[simp] theorem tickReset_vars : (tickReset s).vars = s.vars := rfl
@[simp] theorem tickReset_shown : (tickReset s).shown = s.shown := rfl
@[simp] theorem tickReset_writes : (tickReset s).writes = s.writes := rfl
@[simp] theorem tickReset_bridgeReady : (tickReset s).bridgeReady = s.bridgeReady := rfl
@[simp] theorem tickReset_cfgAddr : (tickReset s).cfgAddr = s.cfgAddr := rfl
@[simp] theorem tickReset_lpcWin : (tickReset s).lpcWin = s.lpcWin := rfl
@[simp] theorem tickReset_isaWin : (tickReset s).isaWin = s.isaWin := rfl

/-! ### resetTurn -/

@[simp] theorem resetTurn_latchB : (resetTurn s).latchB = resetLatch := rfl
@[simp] theorem resetTurn_latchM : (resetTurn s).latchM = resetLatch := rfl
@[simp] theorem resetTurn_scanP : (resetTurn s).scanP = 0#17 := rfl
@[simp] theorem resetTurn_runOpen : (resetTurn s).runOpen = false := rfl
@[simp] theorem resetTurn_runStart : (resetTurn s).runStart = resetLatch := rfl
@[simp] theorem resetTurn_runLast : (resetTurn s).runLast = resetLatch := rfl
@[simp] theorem resetTurn_busy : (resetTurn s).busy = false := rfl
@[simp] theorem resetTurn_resp : (resetTurn s).resp = [] := rfl
@[simp] theorem resetTurn_cmd : (resetTurn s).cmd = s.cmd := rfl
@[simp] theorem resetTurn_resetIn : (resetTurn s).resetIn = none := rfl
@[simp] theorem resetTurn_hostPos : (resetTurn s).hostPos = s.hostPos := rfl
@[simp] theorem resetTurn_pending : (resetTurn s).pending = s.pending := rfl
@[simp] theorem resetTurn_received : (resetTurn s).received = s.received := rfl
@[simp] theorem resetTurn_shown : (resetTurn s).shown = s.shown := rfl
@[simp] theorem resetTurn_writes : (resetTurn s).writes = s.writes := rfl
@[simp] theorem resetTurn_bridgeReady : (resetTurn s).bridgeReady = s.bridgeReady := rfl
@[simp] theorem resetTurn_cfgAddr : (resetTurn s).cfgAddr = s.cfgAddr := rfl
@[simp] theorem resetTurn_lpcWin : (resetTurn s).lpcWin = s.lpcWin := rfl
@[simp] theorem resetTurn_isaWin : (resetTurn s).isaWin = s.isaWin := rfl

/-! ### cfgWrite32 -/

@[simp] theorem cfgWrite32_latchB (a : CfgAddr) (v : LpcWord) : (cfgWrite32 a v s).latchB = s.latchB := rfl
@[simp] theorem cfgWrite32_latchM (a : CfgAddr) (v : LpcWord) : (cfgWrite32 a v s).latchM = s.latchM := rfl
@[simp] theorem cfgWrite32_scanP (a : CfgAddr) (v : LpcWord) : (cfgWrite32 a v s).scanP = s.scanP := rfl
@[simp] theorem cfgWrite32_runOpen (a : CfgAddr) (v : LpcWord) : (cfgWrite32 a v s).runOpen = s.runOpen := rfl
@[simp] theorem cfgWrite32_runStart (a : CfgAddr) (v : LpcWord) : (cfgWrite32 a v s).runStart = s.runStart := rfl
@[simp] theorem cfgWrite32_runLast (a : CfgAddr) (v : LpcWord) : (cfgWrite32 a v s).runLast = s.runLast := rfl
@[simp] theorem cfgWrite32_busy (a : CfgAddr) (v : LpcWord) : (cfgWrite32 a v s).busy = s.busy := rfl
@[simp] theorem cfgWrite32_resp (a : CfgAddr) (v : LpcWord) : (cfgWrite32 a v s).resp = s.resp := rfl
@[simp] theorem cfgWrite32_cmd (a : CfgAddr) (v : LpcWord) : (cfgWrite32 a v s).cmd = s.cmd := rfl
@[simp] theorem cfgWrite32_resetIn (a : CfgAddr) (v : LpcWord) : (cfgWrite32 a v s).resetIn = s.resetIn := rfl
@[simp] theorem cfgWrite32_hostPos (a : CfgAddr) (v : LpcWord) : (cfgWrite32 a v s).hostPos = s.hostPos := rfl
@[simp] theorem cfgWrite32_pending (a : CfgAddr) (v : LpcWord) : (cfgWrite32 a v s).pending = s.pending := rfl
@[simp] theorem cfgWrite32_received (a : CfgAddr) (v : LpcWord) : (cfgWrite32 a v s).received = s.received := rfl
@[simp] theorem cfgWrite32_vars (a : CfgAddr) (v : LpcWord) : (cfgWrite32 a v s).vars = s.vars := rfl
@[simp] theorem cfgWrite32_shown (a : CfgAddr) (v : LpcWord) : (cfgWrite32 a v s).shown = s.shown := rfl
@[simp] theorem cfgWrite32_writes (a : CfgAddr) (v : LpcWord) : (cfgWrite32 a v s).writes = s.writes ++ [.cfg32 a v] := rfl
@[simp] theorem cfgWrite32_bridgeReady (a : CfgAddr) (v : LpcWord) : (cfgWrite32 a v s).bridgeReady = s.bridgeReady := rfl
@[simp] theorem cfgWrite32_cfgAddr (a : CfgAddr) (v : LpcWord) : (cfgWrite32 a v s).cfgAddr = a := rfl
@[simp] theorem cfgWrite32_isaWin (a : CfgAddr) (v : LpcWord) : (cfgWrite32 a v s).isaWin = s.isaWin := rfl

/-! ### idxWrite8 -/

@[simp] theorem idxWrite8_latchB (x v : Byte) : (idxWrite8 x v s).latchB = s.latchB := rfl
@[simp] theorem idxWrite8_latchM (x v : Byte) : (idxWrite8 x v s).latchM = s.latchM := rfl
@[simp] theorem idxWrite8_scanP (x v : Byte) : (idxWrite8 x v s).scanP = s.scanP := rfl
@[simp] theorem idxWrite8_runOpen (x v : Byte) : (idxWrite8 x v s).runOpen = s.runOpen := rfl
@[simp] theorem idxWrite8_runStart (x v : Byte) : (idxWrite8 x v s).runStart = s.runStart := rfl
@[simp] theorem idxWrite8_runLast (x v : Byte) : (idxWrite8 x v s).runLast = s.runLast := rfl
@[simp] theorem idxWrite8_busy (x v : Byte) : (idxWrite8 x v s).busy = s.busy := rfl
@[simp] theorem idxWrite8_resp (x v : Byte) : (idxWrite8 x v s).resp = s.resp := rfl
@[simp] theorem idxWrite8_cmd (x v : Byte) : (idxWrite8 x v s).cmd = s.cmd := rfl
@[simp] theorem idxWrite8_resetIn (x v : Byte) : (idxWrite8 x v s).resetIn = s.resetIn := rfl
@[simp] theorem idxWrite8_hostPos (x v : Byte) : (idxWrite8 x v s).hostPos = s.hostPos := rfl
@[simp] theorem idxWrite8_pending (x v : Byte) : (idxWrite8 x v s).pending = s.pending := rfl
@[simp] theorem idxWrite8_received (x v : Byte) : (idxWrite8 x v s).received = s.received := rfl
@[simp] theorem idxWrite8_vars (x v : Byte) : (idxWrite8 x v s).vars = s.vars := rfl
@[simp] theorem idxWrite8_shown (x v : Byte) : (idxWrite8 x v s).shown = s.shown := rfl
@[simp] theorem idxWrite8_writes (x v : Byte) : (idxWrite8 x v s).writes = s.writes ++ [.idx8 x v] := rfl
@[simp] theorem idxWrite8_bridgeReady (x v : Byte) : (idxWrite8 x v s).bridgeReady = s.bridgeReady := rfl
@[simp] theorem idxWrite8_cfgAddr (x v : Byte) : (idxWrite8 x v s).cfgAddr = s.cfgAddr := rfl
@[simp] theorem idxWrite8_lpcWin (x v : Byte) : (idxWrite8 x v s).lpcWin = s.lpcWin := rfl

end Sys2Proof.Laws
end

