-- ==== Sys2Proof/Laws/Ops.lean ====
section
/-! SUPPORT. What the shared operations do, said once: the parameters' widths, the window tables, the host's place in its program, the scan's moves and their frames. -/

namespace Sys2Proof.Laws

open Sys2Proof Sys2Proof.Machine

/-! ### The parameters -/

/-- The widths of R5 are those of the model's types, and there are as many windows as indices. -/
theorem widths_are_printed :
    Port = BitVec Config.printed.baseW ∧ Port = BitVec Config.printed.maskW ∧
      Port = BitVec Config.printed.portW ∧ LpcWord = BitVec Config.printed.wordW ∧
      Command = BitVec Config.printed.cmdW ∧ Config.printed.nwin = 4 :=
  ⟨rfl, rfl, rfl, rfl, rfl, rfl⟩

/-! ### The host's place in its program -/

/-- Beginning an action changes nothing but the host's place in its program. -/
theorem dequeueAction_frame (s : State) :
    dequeueAction s = { s with
      hostPos := (dequeueAction s).hostPos
      pending := (dequeueAction s).pending } := by
  unfold dequeueAction; split <;> rfl

theorem dequeueAction_cons {s : State} {a : HostAction} {rest : List HostAction} (h : s.pending = a :: rest) :
    dequeueAction s = { s with pending := rest } := by
  simp [dequeueAction, h]

theorem nextAction_cons {s : State} {a : HostAction} {rest : List HostAction} (h : s.pending = a :: rest)
    (prog : List HostAction) : nextAction prog s = some a := by
  simp [nextAction, h]

/-- The host's next action depends on its place in its program alone. -/
theorem nextAction_congr {s t : State} (prog : List HostAction) (hp : t.pending = s.pending)
    (hq : t.hostPos = s.hostPos) : nextAction prog t = nextAction prog s := by
  simp [nextAction, hp, hq]

@[simp] theorem dequeueAction_latchB (s : State) : (dequeueAction s).latchB = s.latchB := by
  rw [dequeueAction_frame]
@[simp] theorem dequeueAction_latchM (s : State) : (dequeueAction s).latchM = s.latchM := by
  rw [dequeueAction_frame]
@[simp] theorem dequeueAction_scanP (s : State) : (dequeueAction s).scanP = s.scanP := by
  rw [dequeueAction_frame]
@[simp] theorem dequeueAction_runOpen (s : State) : (dequeueAction s).runOpen = s.runOpen := by
  rw [dequeueAction_frame]
@[simp] theorem dequeueAction_runStart (s : State) : (dequeueAction s).runStart = s.runStart := by
  rw [dequeueAction_frame]
@[simp] theorem dequeueAction_runLast (s : State) : (dequeueAction s).runLast = s.runLast := by
  rw [dequeueAction_frame]
@[simp] theorem dequeueAction_busy (s : State) : (dequeueAction s).busy = s.busy := by
  rw [dequeueAction_frame]
@[simp] theorem dequeueAction_resp (s : State) : (dequeueAction s).resp = s.resp := by
  rw [dequeueAction_frame]
@[simp] theorem dequeueAction_cmd (s : State) : (dequeueAction s).cmd = s.cmd := by
  rw [dequeueAction_frame]
@[simp] theorem dequeueAction_resetIn (s : State) : (dequeueAction s).resetIn = s.resetIn := by
  rw [dequeueAction_frame]
@[simp] theorem dequeueAction_received (s : State) : (dequeueAction s).received = s.received := by
  rw [dequeueAction_frame]
@[simp] theorem dequeueAction_vars (s : State) : (dequeueAction s).vars = s.vars := by
  rw [dequeueAction_frame]
@[simp] theorem dequeueAction_shown (s : State) : (dequeueAction s).shown = s.shown := by
  rw [dequeueAction_frame]
@[simp] theorem dequeueAction_writes (s : State) : (dequeueAction s).writes = s.writes := by
  rw [dequeueAction_frame]
@[simp] theorem dequeueAction_bridgeReady (s : State) : (dequeueAction s).bridgeReady = s.bridgeReady := by
  rw [dequeueAction_frame]
@[simp] theorem dequeueAction_cfgAddr (s : State) : (dequeueAction s).cfgAddr = s.cfgAddr := by
  rw [dequeueAction_frame]
@[simp] theorem dequeueAction_lpcWin (s : State) : (dequeueAction s).lpcWin = s.lpcWin := by
  rw [dequeueAction_frame]
@[simp] theorem dequeueAction_isaWin (s : State) : (dequeueAction s).isaWin = s.isaWin := by
  rw [dequeueAction_frame]

/-- With no reset due there is none to count down to. -/
theorem tickReset_of_none {s : State} (h : s.resetIn = none) : tickReset s = s := by
  cases s; simp_all [tickReset]

/-! ### Per-window values -/

@[simp] theorem perWindow_get_set {α : Type} (v : PerWindow α) (i : Fin 4) (x : α) :
    (v.set i x).get i = x := by
  match i with
  | 0 | 1 | 2 | 3 => rfl

theorem perWindow_get_set_ne {α : Type} (v : PerWindow α) (i j : Fin 4) (x : α) (h : i ≠ j) :
    (v.set i x).get j = v.get j := by
  match i, j with
  | 0, 1 | 0, 2 | 0, 3 | 1, 0 | 1, 2 | 1, 3 | 2, 0 | 2, 1 | 2, 3 | 3, 0 | 3, 1 | 3, 2 => rfl
  | 0, 0 | 1, 1 | 2, 2 | 3, 3 => exact absurd rfl h

@[simp] theorem perWindow_set_set {α : Type} (v : PerWindow α) (i : Fin 4) (x y : α) :
    (v.set i x).set i y = v.set i y := by
  match i with
  | 0 | 1 | 2 | 3 => rfl

/-! ### The window map -/

/-- The register found at a window's configuration address is that window's. -/
theorem lpcWindowAt_table (i : Fin 4) :
    lpcWindowAt Config.printed (Config.printed.lpcGenericDecode.get i) = some i := by
  match i with
  | 0 | 1 | 2 | 3 => decide

/-- The register found at the index of one byte of a window is that byte's. -/
theorem isaRegisterAt_table (i : Fin 4) (which : IsaByte) :
    isaRegisterAt Config.printed (isaIndex Config.printed i which) = some (i, which) := by
  match i, which with
  | 0, .mask | 0, .low | 0, .high | 1, .mask | 1, .low | 1, .high
  | 2, .mask | 2, .low | 2, .high | 3, .mask | 3, .low | 3, .high => decide

/-- A configuration write to a window's address sets that window's register. -/
theorem cfgWrite32_window (i : Fin 4) (v : LpcWord) (s : State) :
    (cfgWrite32 (Config.printed.lpcGenericDecode.get i) v s).lpcWin = s.lpcWin.set i v := by
  simp only [cfgWrite32, lpcWindowAt_table]

/-- An index write to a window's register sets it, where the bridge accepts the write. -/
theorem idxWrite8_window (i : Fin 4) (which : IsaByte) (v : Byte) (s : State) (h : s.bridgeReady = true) :
    (idxWrite8 (isaIndex Config.printed i which) v s).isaWin =
      s.isaWin.set i ((s.isaWin.get i).write which v) := by
  simp [idxWrite8, h, isaRegisterAt_table]

/-! ### Emitting the open run -/

theorem emitOpenRun_open {s : State} (h : s.runOpen = true) :
    emitOpenRun s = respond (.run ⟨s.runStart, s.runLast⟩) s := by
  simp [emitOpenRun, h]

theorem emitOpenRun_closed {s : State} (h : s.runOpen = false) : emitOpenRun s = s := by
  simp [emitOpenRun, h]

/-! ### One scan step, in its three cases (R66) -/

theorem scanStep_miss (s : State) : scanStep false s = { s with scanP := s.scanP + 1#17 } := rfl

theorem scanStep_extend {s : State} (h : extendsRun s (s.scanP.setWidth 16) = true) :
    scanStep true s = { s with runLast := s.scanP.setWidth 16, scanP := s.scanP + 1#17 } := by
  simp [scanStep, h]

theorem scanStep_open {s : State} (h : extendsRun s (s.scanP.setWidth 16) = false) :
    scanStep true s =
      { openRunAt (s.scanP.setWidth 16) (emitOpenRun s) with scanP := s.scanP + 1#17 } := by
  simp [scanStep, h]

/-- Everything a scan step can do: it moves `P` on, may write the run registers and may place one RUN record. -/
theorem scanStep_frame (hit : Bool) (s : State) :
    scanStep hit s = { s with
      scanP := s.scanP + 1#17
      runOpen := (scanStep hit s).runOpen
      runStart := (scanStep hit s).runStart
      runLast := (scanStep hit s).runLast
      resp := (scanStep hit s).resp } := by
  cases hit with
  | false => rfl
  | true =>
    cases he : extendsRun s (s.scanP.setWidth 16) with
    | true => rw [scanStep_extend he]
    | false =>
      rw [scanStep_open he]
      cases ho : s.runOpen with
      | true => rw [emitOpenRun_open ho]; rfl
      | false => rw [emitOpenRun_closed ho]; rfl

/-- A scan step drops no record, and places at most one: the run it closes. -/
theorem scanStep_resp (hit : Bool) (s : State) :
    (scanStep hit s).resp = s.resp ∨
      (s.runOpen = true ∧ (scanStep hit s).resp = s.resp ++ [.run ⟨s.runStart, s.runLast⟩]) := by
  cases hit with
  | false => exact .inl rfl
  | true =>
    cases he : extendsRun s (s.scanP.setWidth 16) with
    | true => rw [scanStep_extend he]; exact .inl rfl
    | false =>
      rw [scanStep_open he]
      cases ho : s.runOpen with
      | true => rw [emitOpenRun_open ho]; exact .inr ⟨rfl, rfl⟩
      | false => rw [emitOpenRun_closed ho]; exact .inl rfl

/-! ### The block's move -/

/-- Everything a move of the block can do: nothing while idle, one scan step, or the finish. -/
theorem blockMoveBy_cases (f : Port → Bool) (s : State) :
    (s.busy = false ∧ blockMoveBy f s = s) ∨
    (s.busy = true ∧ s.scanP = 0x10000#17 ∧ blockMoveBy f s = finishScan s) ∨
    (s.busy = true ∧ s.scanP ≠ 0x10000#17 ∧
      blockMoveBy f s = scanStep (f (s.scanP.setWidth 16)) s) := by
  have he : scanEnd Config.printed = 0x10000#17 := by decide
  cases hb : s.busy with
  | false => exact .inl ⟨rfl, by simp [blockMoveBy, hb]⟩
  | true =>
    by_cases hp : s.scanP = 0x10000#17
    · exact .inr (.inl ⟨rfl, hp, by simp [blockMoveBy, hb, hp, he]⟩)
    · exact .inr (.inr ⟨rfl, hp, by simp [blockMoveBy, hb, hp, he]⟩)

/-- Everything the finish can do: place the open run, if any, then DONE, and clear `OPEN` and `BUSY`. -/
theorem finishScan_frame (s : State) :
    finishScan s = { s with
      runOpen := false
      busy := false
      resp := s.resp ++ (if s.runOpen then [.run ⟨s.runStart, s.runLast⟩, .done] else [.done]) } := by
  cases ho : s.runOpen with
  | true => simp [finishScan, emitOpenRun_open ho, respond]
  | false => simp [finishScan, emitOpenRun_closed ho, respond]

/-- A move of the block writes nothing but its scan registers, `BUSY` and the response port. -/
theorem blockMoveBy_frame (f : Port → Bool) (s : State) :
    blockMoveBy f s = { s with
      scanP := (blockMoveBy f s).scanP
      runOpen := (blockMoveBy f s).runOpen
      runStart := (blockMoveBy f s).runStart
      runLast := (blockMoveBy f s).runLast
      busy := (blockMoveBy f s).busy
      resp := (blockMoveBy f s).resp } := by
  rcases blockMoveBy_cases f s with ⟨-, h⟩ | ⟨-, -, h⟩ | ⟨-, -, h⟩
  · rw [h]
  · rw [h, finishScan_frame]
  · rw [h, scanStep_frame]

end Sys2Proof.Laws
end

