-- ==== Sys2Proof/Laws/PerInstr.lean ====
section
/-! SUPPORT. The family OpCode: what the encoding of each operation carries beside its operands (R37, R39). -/

namespace Sys2Proof.Laws.OpCode

open Sys2Proof Sys2Proof.Machine Sys2Proof.Laws

/-- The encoding of an operation is well formed and carries the operation's own code, and a `p` field of 0 unless the operation is MATCH. -/
def Statement (i : Instr) : Prop :=
  commandWellFormed (encode i) = true ∧ opField (encode i) = i.opcode ∧
    (i.opcode ≠ 3#3 → pField (encode i) = 0#16)

theorem enclpc (base mask : Port) : Statement (.enclpc base mask) := by
  simp [Statement, encode, Instr.opcode, commandWellFormed]

theorem declpc (word : LpcWord) : Statement (.declpc word) := by
  simp [Statement, encode, Instr.opcode, commandWellFormed]

theorem encisa (base mask : Port) : Statement (.encisa base mask) := by
  simp [Statement, encode, Instr.opcode, commandWellFormed]

theorem matchPort (base mask p : Port) : Statement (.matchPort base mask p) := by
  simp [Statement, encode, Instr.opcode, commandWellFormed]

theorem expand (base mask : Port) : Statement (.expand base mask) := by
  simp [Statement, encode, Instr.opcode, commandWellFormed]

end Sys2Proof.Laws.OpCode
end

