-- ==== Sys2Proof/Laws/Step.lean ====
section
/-! SUPPORT. What one step can do, said once: an accepted command, the block's turn, the host's turn, the reset input. -/

namespace Sys2Proof.Laws

open Sys2Proof Sys2Proof.Machine

theorem blockMove_idle {s : State} (h : s.busy = false) : blockMove s = s := by
  simp [blockMove, blockMoveBy, h]

/-! ### The block's turn -/

/-- Accepting a command runs the operation it decodes to, or refuses a reserved code. -/
theorem acceptCommand_cases (c : Command) (s : State) :
    (∃ i, decode c = .ok i ∧ acceptCommand c s = exec i { s with cmd := none }) ∨
    (∃ op, decode c = .error (.reservedOp op) ∧ acceptCommand c s = .refused (.reservedOp op)) := by
  cases h : decode c with
  | ok i => exact .inl ⟨i, rfl, by simp [acceptCommand, h]⟩
  | error e => cases e with
    | reservedOp op => exact .inr ⟨op, rfl, by simp [acceptCommand, h]⟩

/-- What an operation answers: one record at the end of the port, or the start of a scan. -/
theorem exec_cases (i : Instr) (s : State) :
    (∃ r, r.wellFormed = true ∧ exec i s = .next (respond r s)) ∨
    (∃ base mask, i = .expand base mask ∧ exec i s = .next (beginScan base mask s)) := by
  cases i with
  | enclpc base mask => exact .inl ⟨_, rfl, rfl⟩
  | declpc word => exact .inl ⟨_, rfl, rfl⟩
  | encisa base mask => exact .inl ⟨_, rfl, rfl⟩
  | matchPort base mask p => exact .inl ⟨_, rfl, rfl⟩
  | expand base mask => exact .inr ⟨base, mask, rfl, rfl⟩

/-! ### The host's turn -/

/-- Everything an action can do when it answers a next state: the host only goes on in its program,
it presents a command, takes a record, has the reset asserted, shows a range, or makes one of its two writes. -/
theorem hostAct_cases {a : HostAction} {s t : State} (h : hostAct a s = .next t) :
    (∃ p, t = { s with pending := p }) ∨
    (∃ c, a = .present c ∧ t = { s with cmd := some c }) ∨
    (∃ p r rs, s.resp = r :: rs ∧ t = takeRecord r rs { s with pending := p }) ∨
    (∃ after, a = .reset after ∧ t = { s with resetIn := some after }) ∨
    (a = .display ∧ t = { s with shown := s.shown ++ [⟨s.vars.word, textRuns s.vars.runs⟩] }) ∨
    (∃ i, a = .writeLpc i ∧ t = cfgWrite32 (Config.printed.lpcGenericDecode.get i) s.vars.word s) ∨
    (∃ i which, a = .writeIsa i which ∧
      t = idxWrite8 (isaIndex Config.printed i which) (isaValue s.vars which) s) := by
  cases a with
  | present c => cases h; exact .inr (.inl ⟨c, rfl, rfl⟩)
  | take =>
    simp only [hostAct, actTake] at h
    split at h
    · rename_i r rs hr
      cases h; exact .inr (.inr (.inl ⟨s.pending, r, rs, hr, rfl⟩))
    · cases h; exact .inl ⟨_, rfl⟩
  | takeToDone =>
    simp only [hostAct, actTakeToDone] at h
    split at h
    · rename_i rs hr
      cases h; exact .inr (.inr (.inl ⟨s.pending, .done, rs, hr, rfl⟩))
    · rename_i r rs _ hr
      cases h; exact .inr (.inr (.inl ⟨_, r, rs, hr, rfl⟩))
    · cases h; exact .inl ⟨_, rfl⟩
  | reset after => cases h; exact .inr (.inr (.inr (.inl ⟨after, rfl, rfl⟩)))
  | showRange base mask =>
    simp only [hostAct, actShow] at h
    split at h
    · rename_i r rs hr
      cases h; exact .inr (.inr (.inl ⟨_, r, rs, hr, rfl⟩))
    · cases h; exact .inl ⟨_, rfl⟩
  | display => cases h; exact .inr (.inr (.inr (.inr (.inl ⟨rfl, rfl⟩))))
  | writeLpc i => cases h; exact .inr (.inr (.inr (.inr (.inr (.inl ⟨i, rfl, rfl⟩)))))
  | writeIsa i which => cases h; exact .inr (.inr (.inr (.inr (.inr (.inr ⟨i, which, rfl, rfl⟩)))))
  | progw i base mask =>
    simp only [hostAct, actProgw] at h
    split at h
    · cases h; exact .inl ⟨_, rfl⟩
    · cases h
  | programWindows numRanges ranges =>
    simp only [hostAct, actProgramWindows] at h
    split at h
    · cases h; exact .inl ⟨_, rfl⟩
    · cases h

/-- The host's turn either has nothing left to do or is its next action, begun. -/
theorem hostTurn_cases (prog : List HostAction) (s : State) :
    (nextAction prog s = none ∧ hostTurn prog s = .next s) ∨
    (∃ a, nextAction prog s = some a ∧ hostTurn prog s = hostAct a (dequeueAction s)) := by
  cases h : nextAction prog s with
  | none => exact .inl ⟨rfl, by simp [hostTurn, h]⟩
  | some a => exact .inr ⟨a, rfl, by simp [hostTurn, h]⟩

/-! ### The step -/

/-- Whose step it is: the reset input's, that of a command the block accepts, the block's own move, or the host's turn. -/
theorem advance_eq (prog : List HostAction) (s : State) :
    (s.resetIn = some 0 ∧ advance prog s = .next (resetTurn s)) ∨
    (∃ c, s.resetIn ≠ some 0 ∧ s.cmd = some c ∧ s.busy = false ∧
      advance prog s = acceptCommand c (tickReset s)) ∨
    (s.resetIn ≠ some 0 ∧ s.busy = true ∧ advance prog s = .next (blockMove (tickReset s))) ∨
    (s.resetIn ≠ some 0 ∧ s.cmd = none ∧ s.busy = false ∧ advance prog s = hostTurn prog (tickReset s)) := by
  by_cases hr : s.resetIn = some 0
  · exact .inl ⟨hr, by simp [advance, hr]⟩
  · cases hb : s.busy with
    | true =>
      refine .inr (.inr (.inl ⟨hr, rfl, ?_⟩))
      cases hc : s.cmd <;> simp [advance, hr, agentTurn, nextAgent, blockTurn, cmdReady, hb, hc]
    | false =>
      cases hc : s.cmd with
      | none => exact .inr (.inr (.inr ⟨hr, rfl, rfl, by simp [advance, hr, agentTurn, nextAgent, hb, hc]⟩))
      | some c =>
        exact .inr (.inl ⟨c, hr, rfl, rfl,
          by simp [advance, hr, agentTurn, nextAgent, blockTurn, cmdReady, hb, hc]⟩)

/-- Everything a step that answers a next state can do. -/
theorem advance_cases {prog : List HostAction} {s t : State} (h : advance prog s = .next t) :
    (s.resetIn = some 0 ∧ t = resetTurn s) ∨
    (∃ c i, s.resetIn ≠ some 0 ∧ s.cmd = some c ∧ s.busy = false ∧ decode c = .ok i ∧
      exec i { tickReset s with cmd := none } = .next t) ∨
    (s.resetIn ≠ some 0 ∧ s.busy = true ∧ t = blockMove (tickReset s)) ∨
    (s.resetIn ≠ some 0 ∧ s.cmd = none ∧ s.busy = false ∧ hostTurn prog (tickReset s) = .next t) := by
  rcases advance_eq prog s with ⟨hr, e⟩ | ⟨c, hr, hc, hb, e⟩ | ⟨hr, hb, e⟩ | ⟨hr, hc, hb, e⟩
  · exact .inl ⟨hr, by rw [e, Host.Outcome.next.injEq] at h; exact h.symm⟩
  · rcases acceptCommand_cases c (tickReset s) with ⟨i, hd, ha⟩ | ⟨op, -, ha⟩
    · exact .inr (.inl ⟨c, i, hr, hc, hb, hd, by rw [← ha, ← e, h]⟩)
    · rw [e, ha] at h; cases h
  · exact .inr (.inr (.inl ⟨hr, hb, by rw [e, Host.Outcome.next.injEq] at h; exact h.symm⟩))
  · exact .inr (.inr (.inr ⟨hr, hc, hb, by rw [← e, h]⟩))

end Sys2Proof.Laws
end

