-- ==== Sys2Proof/Laws/Scan.lean ====
section
/-! SUPPORT. Sequences of the block's moves, and the forward equations of a step: which rule of the schedule applies. -/

namespace Sys2Proof.Laws

open Sys2Proof Sys2Proof.Machine

/-! ### Sequences of moves -/

theorem blockMovesBy_succ (f : Port → Bool) (n : Nat) (s : State) :
    blockMovesBy f (n + 1) s = blockMoveBy f (blockMovesBy f n s) := by
  induction n generalizing s with
  | zero => rfl
  | succ n ih => exact ih (blockMoveBy f s)

theorem blockMoves_succ (n : Nat) (s : State) :
    blockMoves (n + 1) s = blockMove (blockMoves n s) := by
  induction n generalizing s with
  | zero => rfl
  | succ n ih => exact ih (blockMove s)

@[simp] theorem blockMoveBy_latchB (f : Port → Bool) (s : State) :
    (blockMoveBy f s).latchB = s.latchB := by rw [blockMoveBy_frame]

@[simp] theorem blockMoveBy_latchM (f : Port → Bool) (s : State) :
    (blockMoveBy f s).latchM = s.latchM := by rw [blockMoveBy_frame]

/-- The latches are not written while the block moves, so its predicate stays that of the accepted range. -/
theorem blockMoves_eq (n : Nat) (s : State) :
    blockMoves n s = blockMovesBy (portMatches Config.printed s.latchB s.latchM) n s := by
  induction n generalizing s with
  | zero => rfl
  | succ n ih =>
    show blockMoves n (blockMove s) = blockMovesBy _ n (blockMoveBy _ s)
    rw [ih]
    simp [blockMove]

/-! ### The schedule, forwards -/

theorem step_eq_advance (s : State) : step s = advance Config.hostProgram s := rfl

theorem advance_of_reset {s : State} (hr : s.resetIn = some 0) (prog : List HostAction) :
    advance prog s = .next (resetTurn s) := by
  simp [advance, hr]

theorem advance_of_command {s : State} {c : Command} (hr : s.resetIn ≠ some 0) (hc : s.cmd = some c)
    (hb : s.busy = false) (prog : List HostAction) : advance prog s = acceptCommand c (tickReset s) := by
  simp [advance, hr, agentTurn, nextAgent, blockTurn, cmdReady, hb, hc]

theorem advance_of_busy {s : State} (hr : s.resetIn ≠ some 0) (hb : s.busy = true) (prog : List HostAction) :
    advance prog s = .next (blockMove (tickReset s)) := by
  cases hc : s.cmd <;> simp [advance, hr, agentTurn, nextAgent, blockTurn, cmdReady, hb, hc]

theorem advance_of_host {s : State} (hr : s.resetIn ≠ some 0) (hc : s.cmd = none) (hb : s.busy = false)
    (prog : List HostAction) : advance prog s = hostTurn prog (tickReset s) := by
  simp [advance, hr, agentTurn, nextAgent, hb, hc]

/-- The host's turn with an action begun earlier still to do: that action is next. -/
theorem hostTurn_cons {s : State} {a : HostAction} {rest : List HostAction} (h : s.pending = a :: rest)
    (prog : List HostAction) : hostTurn prog s = hostAct a { s with pending := rest } := by
  simp [hostTurn, nextAction_cons h, dequeueAction_cons h]

theorem hostTurn_some {s : State} {a : HostAction} {prog : List HostAction} (h : nextAction prog s = some a) :
    hostTurn prog s = hostAct a (dequeueAction s) := by
  simp [hostTurn, h]

/-! ### Runs of steps -/

/-- The host's runs are those of the program that is the model's parameter. -/
theorem coreRun_eq (n : Nat) (s : State) :
    Host.Core.run Sys2Proof.core n s = runSteps Config.hostProgram n s := by
  induction n generalizing s with
  | zero => rfl
  | succ n ih =>
    have h : Sys2Proof.core.step s = advance Config.hostProgram s := rfl
    simp only [Host.Core.run, runSteps, h]
    cases advance Config.hostProgram s with
    | next t => exact ih t
    | fault r => rfl
    | refused r => rfl

/-- One step, then a run. -/
theorem runSteps_succ {prog : List HostAction} {s t : State} (h : advance prog s = .next t) (n : Nat) :
    runSteps prog (n + 1) s = runSteps prog n t := by
  simp only [runSteps, h]

/-- A run of at least one step begins with a step that answers a next state. -/
theorem advance_of_runSteps_succ {prog : List HostAction} {s u : State} {n : Nat}
    (h : runSteps prog (n + 1) s = .next u) :
    ∃ t : State, advance prog s = .next t ∧ runSteps prog n t = .next u := by
  cases hs : advance prog s with
  | next t => exact ⟨t, rfl, by rw [← runSteps_succ hs, h]⟩
  | fault r => cases r
  | refused r => simp only [runSteps, hs] at h; cases h

/-- A machine that takes one step and then leads somewhere leads there. -/
theorem leadsTo_of_advance {prog : List HostAction} {s t u : State} (h : advance prog s = .next t)
    (ht : LeadsTo prog t u) : LeadsTo prog s u := by
  obtain ⟨n, hn⟩ := ht
  exact ⟨n + 1, by rw [runSteps_succ h, hn]⟩

theorem leadsTo_refl (prog : List HostAction) (s : State) : LeadsTo prog s s := ⟨0, rfl⟩

theorem leadsTo_trans {prog : List HostAction} {s t u : State} (h : LeadsTo prog s t)
    (ht : LeadsTo prog t u) : LeadsTo prog s u := by
  obtain ⟨n, hn⟩ := h
  induction n generalizing s with
  | zero =>
    cases hn
    exact ht
  | succ n ih =>
    obtain ⟨s', hs, hr⟩ := advance_of_runSteps_succ hn
    exact leadsTo_of_advance hs (ih hr)

/-- While an EXPAND is in flight with no reset due, `n` steps are `n` moves of the block, for as long as it stays busy. -/
theorem runSteps_busy (prog : List HostAction) (n : Nat) {s : State} (hr : s.resetIn = none)
    (hb : ∀ m, m < n → (blockMoves m s).busy = true) : runSteps prog n s = .next (blockMoves n s) := by
  induction n generalizing s with
  | zero => rfl
  | succ n ih =>
    have h0 : s.busy = true := hb 0 (by omega)
    have hs : advance prog s = .next (blockMove s) := by
      rw [advance_of_busy (by simp [hr]) h0, tickReset_of_none hr]
    rw [runSteps_succ hs]
    refine ih ?_ (fun m hm => hb (m + 1) (by omega))
    rw [blockMove, blockMoveBy_frame]
    exact hr

end Sys2Proof.Laws
end

