-- ==== Sys2Proof/Tests/Slice0.lean ====
section
/-! SUPPORT. Tests: expected results are the vectors of 95_test_vectors.md; and for every statement with hypotheses, a witness that meets them. -/

namespace Sys2Proof.Tests

open Sys2Proof Sys2Proof.Machine Sys2Proof.Laws

/-! ### Helpers -/

/-- The next state of an outcome, if it is one. -/
def nextOf (o : Host.Outcome State Fault Refusal) : Option State :=
  match o with
  | .next s => some s
  | .fault _ => none
  | .refused _ => none

/-- The refusal of an outcome, if it is one. -/
def refusalOf (o : Host.Outcome State Fault Refusal) : Option Refusal :=
  match o with
  | .next _ => none
  | .fault _ => none
  | .refused r => some r

/-- The reset state with a command presented. -/
def presenting (c : Command) : State := { State.reset with cmd := some c }

/-- The reset state with actions the host has begun. -/
def running (p : List HostAction) : State := { State.reset with pending := p }

/-- One step from the reset state of a host whose program begins with `a`. -/
def firstStep (a : HostAction) : Host.Outcome State Fault Refusal := advance [a] State.reset

/-- The source's four example ranges (95_test_vectors.md). -/
def fourRanges : PerWindow DecodeRange :=
  ⟨⟨0x0200#16, 0x00FC#16⟩, ⟨0x0300#16, 0x0070#16⟩, ⟨0x0388#16, 0x001C#16⟩, ⟨0x0A00#16, 0x00FC#16⟩⟩

/-- An EXPAND in flight whose next address to test is `p`, with an open run. -/
def scanning (base mask : Port) (p : ScanAddr) (start last : Port) : State :=
  { State.reset with
    latchB := base, latchM := mask, busy := true, scanP := p,
    runOpen := true, runStart := start, runLast := last }

/-! ### Well-formedness: an ill-formed term for each check -/

theorem test_wf_reserved_command : commandWellFormed 0x5000000000000#51 = false := by decide
theorem test_wf_command : commandWellFormed 0x4000000080010#51 = true := by decide
theorem test_wf_window_index : HostAction.wellFormed (.progw 4 0#16 0#16) = false := by decide
theorem test_wf_no_ranges : HostAction.wellFormed (.programWindows (some 0) fourRanges) = false := by decide
theorem test_wf_five_ranges : HostAction.wellFormed (.programWindows (some 5) fourRanges) = false := by decide
theorem test_wf_run : Run.wellFormed ⟨4#16, 3#16⟩ = false := by decide
theorem test_wf_single_run : Record.wellFormed (.run ⟨0xFFFF#16, 0xFFFF#16⟩) = true := by decide
theorem test_wf_presented_reserved : HostAction.wellFormed (.present 0x7000000000000#51) = false := by decide

/-! ### Decoding: words written out bit by bit from the encodings of R37, R39 and opcode_table.json -/

/-- `000` p=0xABCD mask=0x00FC base=0x0200: the `p` field is ignored (T-RES). -/
theorem test_decode_enclpc :
    decode 0b000_1010101111001101_0000000011111100_0000001000000000#51 =
      .ok (.enclpc 0x0200#16 0x00FC#16) := by rfl

/-- `001` p=0xFFFF word=0x003C0201 (T-RES). -/
theorem test_decode_declpc :
    decode 0b001_1111111111111111_00000000001111000000001000000001#51 =
      .ok (.declpc 0x003C0201#32) := by rfl

/-- `010` mask=0x001C base=0x0388 (T-ENCISA). -/
theorem test_decode_encisa :
    decode 0b010_0000000000000000_0000000000011100_0000001110001000#51 =
      .ok (.encisa 0x0388#16 0x001C#16) := by rfl

/-- `011` p=0x0352 mask=0x0070 base=0x0300 (T-MATCH). -/
theorem test_decode_match :
    decode 0b011_0000001101010010_0000000001110000_0000001100000000#51 =
      .ok (.matchPort 0x0300#16 0x0070#16 0x0352#16) := by rfl

/-- `100` mask=0x0008 base=0x0010 (T-EXPAND, P2). -/
theorem test_decode_expand :
    decode 0b100_0000000000000000_0000000000001000_0000000000010000#51 =
      .ok (.expand 0x0010#16 0x0008#16) := by rfl

/-- op 6, whatever the other fields hold (T-RES). -/
theorem test_decode_reserved : decode 0x6FFFFFFFFFFFF#51 = .error (.reservedOp 6#3) := by rfl

theorem test_encode_match : encode (.matchPort 0xFFFF#16 0x0000#16 0xFFFC#16) = 0x3FFFC0000FFFF#51 := by decide
theorem test_encode_declpc : encode (.declpc 0x12345678#32) = 0x1000012345678#51 := by decide
theorem test_table_word : decodeTableWord 56 0x2000000FEABCD = some (.encisa 0xABCD#16 0x00FE#16) := by decide
theorem test_table_word_too_long : decodeTableWord 56 (2 ^ 51) = none := by decide

/-! ### Records (R44) -/

/-- The TRIPLE of `ENCISA 0x0388, 0x001C` (P1). -/
theorem test_record_triple : (Record.triple 0x88#8 0x03#8 0x1F#8).data = 0x001F0388#32 := by decide
/-- `RUN 0x00130010` of P2. -/
theorem test_record_run : (Record.run ⟨0x0010#16, 0x0013#16⟩).bits = 0x400130010#35 := by decide
theorem test_record_never_sent : Record.ofBits 0x600000000#35 = none := by decide

/-! ### The operations, one step each -/

/-- T-ENCLPC: all carried bits set, both operands truncated. -/
theorem test_enclpc_truncates :
    (nextOf (step (presenting 0x00000FFFFFFFF#51))).map State.resp = some [.word 0x003F3FFF#32] := by decide
/-- T-ENCLPC: `base[1]` passes, `base[0]` merges with the enable bit. -/
theorem test_enclpc_low_bits :
    (nextOf (step (presenting 0x0000000000203#51))).map State.resp = some [.word 0x00000203#32] := by decide
/-- T-DECLPC: the largest results. -/
theorem test_declpc_all_ones :
    (nextOf (step (presenting 0x10000FFFFFFFF#51))).map State.resp =
      some [.range 0x00FC#16 0xFFFC#16] := by decide
/-- T-DECLPC: word bit 23 is mask bit 7. -/
theorem test_declpc_bit23 :
    (nextOf (step (presenting 0x1000000800000#51))).map State.resp = some [.range 0x0080#16 0#16] := by decide
/-- T-ENCISA: low byte first, mask byte forced. -/
theorem test_encisa_order :
    (nextOf (step (presenting 0x2000000FEABCD#51))).map State.resp =
      some [.triple 0xCD#8 0xAB#8 0xFF#8] := by decide
/-- T-ENCISA: `mask[8]` is dropped. -/
theorem test_encisa_mask_cut :
    (nextOf (step (presenting 0x2000001001234#51))).map State.resp =
      some [.triple 0x34#8 0x12#8 0x03#8] := by decide
/-- T-MATCH: bits 6 and 4 free. -/
theorem test_match_hit :
    (nextOf (step (presenting 0x3035200700300#51))).map State.resp = some [.hit true] := by decide
/-- T-MATCH: bit 2 is compared. -/
theorem test_match_miss :
    (nextOf (step (presenting 0x3030400700300#51))).map State.resp = some [.hit false] := by decide
/-- P2, the accept row of the trace. -/
theorem test_expand_accepted :
    (nextOf (step (presenting 0x4000000080010#51))).map
      (fun t => (t.latchB, t.latchM, t.busy, t.scanP, t.runOpen)) =
      some (0x0010#16, 0x0008#16, true, 0#17, false) := by decide
/-- P2, the trace at `P = 0x0018`: not `LAST + 1`, emit then open. -/
theorem test_scan_gap :
    (nextOf (step (scanning 0x0010#16 0x0008#16 0x18#17 0x0010#16 0x0013#16))).map
      (fun t => (t.scanP, t.runStart, t.runLast, t.resp)) =
      some (0x19#17, 0x0018#16, 0x0018#16, [.run ⟨0x0010#16, 0x0013#16⟩]) := by decide
/-- P2, the finish row of the trace. -/
theorem test_scan_finish :
    (nextOf (step (scanning 0x0010#16 0x0008#16 0x10000#17 0x0018#16 0x001B#16))).map
      (fun t => (t.scanP, t.runOpen, t.busy, t.resp)) =
      some (0x10000#17, false, false, [.run ⟨0x0018#16, 0x001B#16⟩, .done]) := by decide
/-- T-RES: a reserved code is refused. -/
theorem test_reserved_refused :
    refusalOf (step (presenting 0x5000000FC0200#51)) = some (.reservedOp 5#3) := by decide
theorem test_fetch_word :
    (nextOf (step (State.reset.withFetchWord 56 0x2000000FC4200))).map State.resp =
      some [.triple 0x00#8 0x42#8 0xFF#8] := by decide

/-! ### The host, the reset input and the parameters -/

/-- P3: the LPC write of window 2. -/
theorem test_write_lpc :
    (nextOf (step { running [.writeLpc 2] with vars := { HostVars.initial with word := 0x001C0389#32 } })).map
      (fun t => (t.writes, t.cfgAddr, t.lpcWin.w2, t.lpcWin.w1)) =
      some ([.cfg32 0x8000F88C#32 0x001C0389#32], 0x8000F88C#32, 0x001C0389#32, 0#32) := by decide
/-- P3: `I8 IdxWrite8(0x32, 0x03)`. -/
theorem test_write_isa :
    (nextOf (step { running [.writeIsa 2 .high] with vars := { HostVars.initial with baseHigh := 0x03#8 } })).map
      (fun t => (t.writes, t.isaWin.w2)) =
      some ([.idx8 0x32#8 0x03#8], ⟨0#8, 0#8, 0x03#8⟩) := by decide
/-- R96: without the launch premise the write does not reach the bridge. -/
theorem test_write_isa_unreached :
    (nextOf (step { running [.writeIsa 2 .high] with
        vars := { HostVars.initial with baseHigh := 0x03#8 }, bridgeReady := false })).map
      (fun t => (t.writes, t.isaWin)) =
      some ([.idx8 0x32#8 0x03#8], State.reset.isaWin) := by decide
/-- R31: a host that goes on to a write after presenting a command has its turn only when the operation has ended. -/
theorem test_write_waits_for_command :
    (nextOf (step { running [.writeLpc 0] with cmd := some 0x0000000000203#51 })).map
      (fun t => (t.writes, t.resp, t.pending)) =
      some ([], [.word 0x00000203#32], [.writeLpc 0]) := by decide
theorem test_progw_refused :
    refusalOf (firstStep (.progw 4 0#16 0#16)) = some (.noSuchWindow 4) := by decide
theorem test_five_windows_refused :
    refusalOf (firstStep (.programWindows (some 5) fourRanges)) = some (.numRangesOutOfRange 5) := by decide
/-- R5: the default number of ranges is 4, in index order (R77). -/
theorem test_default_number_of_windows :
    (nextOf (firstStep (.programWindows none fourRanges))).map State.pending =
      some [.progw 0 0x0200#16 0x00FC#16, .progw 1 0x0300#16 0x0070#16, .progw 2 0x0388#16 0x001C#16,
        .progw 3 0x0A00#16 0x00FC#16] := by decide
/-- R21: a reset in mid-scan, the block's own values. -/
theorem test_reset_in_scan :
    (nextOf (step { scanning 0x0010#16 8#16 0x14#17 0x0010#16 0x0013#16 with
        resetIn := some 0, resp := [.hit true] })).map
      (fun t => (t.busy, t.runOpen, t.scanP, t.resp)) = some (false, false, 0#17, []) := by decide
/-- R105: the host has the reset asserted. -/
theorem test_reset_armed : (nextOf (firstStep (.reset 7))).map State.resetIn = some (some 7) := by decide
/-- R5: the ports and bounds the block itself does not use. -/
theorem test_constants :
    (Config.printed.cfgAddrPort, Config.printed.cfgDataPortFirst, Config.printed.cfgDataPortLast,
      Config.printed.sioIndexPort, Config.printed.sioDataPort, Config.printed.numRangesDefault,
      Config.printed.maxRuns) = (0xCF8#16, 0xCFC#16, 0xCFF#16, 0x4E#16, 0x4F#16, 4, 8192) := by decide
/-- R44: the host takes the first record placed. -/
theorem test_take_first :
    (nextOf (step { running [.take] with resp := [.hit true, .done] })).map
      (fun t => (t.resp, t.received, t.vars.hit)) = some ([.done], [.hit true], true) := by decide
/-- T-EXPAND: one-digit addresses in the text (D13). -/
theorem test_text :
    textRuns [⟨0x0004#16, 0x0007#16⟩, ⟨0x0104#16, 0x0107#16⟩] =
      ['4', '-', '7', ',', '1', '0', '4', '-', '1', '0', '7'] := by decide
theorem test_text_single : textRuns [⟨0xFFFF#16, 0xFFFF#16⟩] = ['F', 'F', 'F', 'F'] := by decide
/-- R49: `MATCH 0x0300, 0x0070, 0x0352` with its comment. -/
theorem test_assemble_match :
    assembleLine (nameMatch ++ [' ', '0', 'x', '3', '0', '0', ',', ' ', '0', 'x', '7', '0', ',', ' ',
      '0', 'x', '3', '5', '2', ' ', ';', ' ', '-', '>']) =
      some [.present 0x3035200700300#51] := by decide
theorem test_assemble_unknown : assembleLine ['H', 'A', 'L', 'T'] = none := by decide

/-! ### Witnesses: for each statement with hypotheses, an instance that meets all of them -/

/-- EncodeOfDecodeKeepsUsedFields. -/
theorem witness_decodes : ∃ i, decode 0x0ABCD00FC0200#51 = .ok i := ⟨_, test_decode_enclpc⟩
/-- TableRowSelectsWhatDecodes. -/
theorem witness_row :
    ⟨"EXPAND", 0x4000000000000#51, 0x7000000000000#51⟩ ∈ opRows := by decide
/-- IgnoredFieldHasNoEffect: two different words. -/
theorem witness_ignored_field :
    opField 0x0ABCD00FC0200#51 = opField 0x0000000FC0200#51 ∧ opField 0x0ABCD00FC0200#51 ≠ 3#3 ∧
      wordField 0x0ABCD00FC0200#51 = wordField 0x0000000FC0200#51 ∧
      (0x0ABCD00FC0200#51 : Command) ≠ 0x0000000FC0200#51 := by decide
/-- RecordBitsReadBack, second clause, at its boundary. -/
theorem witness_unsent_kind : 6 ≤ ((0x600000000#35).extractLsb' 32 3).toNat := by decide
/-- EveryEncodedWordIsEnabled and FrameOfEveryOperation. -/
theorem witness_exec_next : ∃ t, exec (.enclpc 0x0201#16 0#16) State.reset = .next t := ⟨_, rfl⟩
/-- FrameOfEveryOperation, the EXPAND clause. -/
theorem witness_exec_expand : ∃ t, exec (.expand 0x0010#16 8#16) State.reset = .next t := ⟨_, rfl⟩
/-- CombinationalOperationsReadNoState. -/
theorem witness_combinational : ∀ base mask, (Instr.declpc 1#32) ≠ .expand base mask := by
  intro _ _ h; cases h
/-- ScanRunsToTheTopOfThePortSpace, its bound. -/
theorem witness_scan_bound : (65536 : Nat) ≤ 65536 := le_refl _
/-- ExpandRunsToDoneOnItsOwn: with a command waiting at the port. -/
theorem witness_no_reset_due : (presenting 0x1000000000001#51).resetIn = none := rfl
/-- RunListIsUnique: the run list of the predicate that holds everywhere. -/
theorem witness_run_list : IsRunList (fun _ => true) [⟨0x0000#16, 0xFFFF#16⟩] where
  exhaustive p := by
    have : p.toNat < 65536 := p.isLt
    simp [BitVec.le_def]; omega
  ordered r h := by
    simp only [List.mem_singleton] at h
    subst h; decide
  separated := by simp
/-- RunListCounts and RunsAreWholeGroupsOfFour: the largest set of T-EXPAND. -/
theorem witness_run_list_of_range :
    IsRunList (portMatches Config.printed 0x1234#16 0xFFFF#16) [⟨0x0000#16, 0xFFFF#16⟩] := by
  have h : portMatches Config.printed 0x1234#16 0xFFFF#16 = fun _ => true := by
    funext p
    have : effMask Config.printed 0xFFFF#16 = BitVec.allOnes 16 := by decide
    simp only [portMatches, this, BitVec.or_allOnes, beq_self_eq_true]
  rw [h]; exact witness_run_list
/-- MatchPlacesHitOfThePredicate, its bit clause: a bit that is compared, at both ends of the range. -/
theorem witness_compared_bits :
    (0x0070#16).getLsbD 2 = false ∧ (0x0070#16).getLsbD 15 = false := by decide
/-- StepRunsTheDecodedCommand: with no reset due, and with one due later. -/
theorem witness_step_runs :
    (∃ s : State, s.cmd = some 0x4000000080010#51 ∧ s.busy = false ∧ s.resetIn ≠ some 0) ∧
      (∃ s : State, s.cmd = some 0x4000000080010#51 ∧ s.busy = false ∧ s.resetIn = some 1) ∧
      decode 0x4000000080010#51 = .ok (.expand 0x0010#16 0x0008#16) :=
  ⟨⟨presenting 0x4000000080010#51, rfl, rfl, by decide⟩,
    ⟨{ presenting 0x4000000080010#51 with resetIn := some 1 }, rfl, rfl, rfl⟩, test_decode_expand⟩
/-- PresentedCommandWaitsWhileBusy, OnlyRunsAndDoneWhileBusy, HostActsOnlyBetweenOperations: a command presented in mid-scan. -/
theorem witness_waiting :
    ∃ s t : State, s.cmd = some 0x1000000000001#51 ∧ s.busy = true ∧ s.resetIn = none ∧ step s = .next t :=
  ⟨{ scanning 0x0010#16 8#16 0x14#17 0x0010#16 0x0013#16 with cmd := some 0x1000000000001#51 },
    _, rfl, rfl, rfl, rfl⟩
/-- HostActsOnlyBetweenOperations: a command presented to an idle block. -/
theorem witness_presented :
    (presenting 0x4000000080010#51).resetIn ≠ some 0 ∧ (presenting 0x4000000080010#51).cmd ≠ none := by decide
/-- ReservedCommandIsRefused and the first clause of StepStopsOnlyWhere, at the boundary code. -/
theorem witness_reserved :
    (presenting 0x5000000FC0200#51).cmd = some 0x5000000FC0200#51 ∧
      (presenting 0x5000000FC0200#51).busy = false ∧ (presenting 0x5000000FC0200#51).resetIn ≠ some 0 ∧
      5 ≤ (opField 0x5000000FC0200#51).toNat := by decide
/-- StepStopsOnlyWhere: the window clauses at their boundaries. -/
theorem witness_window_stops :
    nextAction [] (running [.progw 4 0#16 0#16]) = some (.progw 4 0#16 0#16) ∧
      nextAction [.programWindows (some 0) fourRanges] State.reset = some (.programWindows (some 0) fourRanges) ∧
      nextAction [.programWindows (some 5) fourRanges] State.reset = some (.programWindows (some 5) fourRanges) ∧
      (some 0).getD 4 = 0 ∧ 5 ≤ (some 5).getD 4 := by
  decide
/-- IdleBlockExecutesNothing. -/
theorem witness_idle :
    State.reset.cmd = none ∧ State.reset.busy = false ∧ State.reset.resetIn = none ∧
      nextAction [] State.reset = none := by decide
/-- ResetAbandonsAnExpansion: a reset in mid-scan with a command waiting, and one that meets a command at a ready port. -/
theorem witness_reset :
    (∃ s : State, s.resetIn = some 0 ∧ s.busy = true ∧ s.cmd ≠ none) ∧
      (∃ s : State, s.resetIn = some 0 ∧ s.busy = false ∧ s.cmd ≠ none) :=
  ⟨⟨{ scanning 0x0010#16 8#16 0x14#17 0x0010#16 0x0013#16 with
        cmd := some 0x1000000000001#51, resetIn := some 0 }, rfl, rfl, by decide⟩,
    ⟨{ presenting 0x1000000000001#51 with resetIn := some 0 }, rfl, rfl, by decide⟩⟩
/-- RecordsAreDeliveredInOrder, OnlyHostWritesReachThePlatform: a step of each kind. -/
theorem witness_steps :
    (∃ t, step { State.reset with resetIn := some 0 } = .next t) ∧
      (∃ t, step { running [.take] with resp := [.hit true] } = .next t) ∧
      (∃ t, step (running [.writeLpc 0]) = .next t) ∧
      (∃ t, step (running [.writeIsa 3 .mask]) = .next t) :=
  ⟨⟨_, rfl⟩, ⟨_, rfl⟩, ⟨_, rfl⟩, ⟨_, rfl⟩⟩
/-- EveryStepKeepsTheInvariant: an open run in mid-scan meets the invariant, and steps, whatever the program. -/
theorem witness_inv (prog : List HostAction) :
    ∃ s t : State, s.Inv ∧ s.runOpen = true ∧ step s = .next t ∧ advance prog s = .next t := by
  refine ⟨scanning 0x0010#16 8#16 0x12#17 0x0010#16 0x0010#16, _, ?_, rfl, rfl, rfl⟩
  refine ⟨by decide, by decide, fun _ => by decide, fun _ => by decide, fun _ p h1 h2 => ?_, ?_, ?_⟩
  · have hp : p = 0x0010#16 := BitVec.le_antisymm h2 h1
    subst hp; decide
  · intro r h; cases h
  · intro r h; cases h
/-- LpcWriteSetsOneWindow: an action of the program, and one left of an action begun. -/
theorem witness_lpc_write :
    State.reset.cmd = none ∧ State.reset.busy = false ∧ State.reset.resetIn ≠ some 0 ∧
      nextAction [.writeLpc 3] State.reset = some (.writeLpc 3) ∧
      nextAction [] (running [.writeLpc 3]) = some (.writeLpc 3) := by decide
/-- IsaWriteSetsOneRegister, both clauses. -/
theorem witness_isa_write :
    (∃ s : State, s.cmd = none ∧ s.busy = false ∧ s.resetIn ≠ some 0 ∧
        nextAction [] s = some (.writeIsa 0 .low) ∧ s.bridgeReady = true) ∧
      (∃ s : State, s.cmd = none ∧ s.busy = false ∧ s.resetIn ≠ some 0 ∧
        nextAction [] s = some (.writeIsa 0 .low) ∧ s.bridgeReady = false) :=
  ⟨⟨running [.writeIsa 0 .low], rfl, rfl, by decide, rfl, rfl⟩,
    ⟨{ running [.writeIsa 0 .low] with bridgeReady := false }, rfl, rfl, by decide, rfl, rfl⟩⟩
/-- The reset state is quiet. -/
theorem reset_quiet : State.reset.Quiet := ⟨rfl, rfl, rfl, rfl, rfl⟩
/-- ProgwProgramsOneWindow: the example of R76. -/
theorem witness_progw :
    State.reset.Quiet ∧ State.reset.bridgeReady = true ∧
      nextAction [.progw 2 0x0388#16 0x001C#16] State.reset =
        some (.progw (2 : Fin 4).val 0x0388#16 0x001C#16) := ⟨reset_quiet, rfl, rfl⟩
/-- ProgramWindowsInOrder: the default number, and every number in its bounds. -/
theorem witness_program_windows :
    State.reset.Quiet ∧ State.reset.bridgeReady = true ∧
      nextAction [.programWindows none fourRanges] State.reset = some (.programWindows none fourRanges) ∧
      (none : Option Nat).getD 4 = 4 ∧
      ∀ n : Nat, 1 ≤ n → n ≤ 4 →
        nextAction [.programWindows (some n) fourRanges] State.reset =
          some (.programWindows (some n) fourRanges) ∧ 1 ≤ (some n).getD 4 ∧ (some n).getD 4 ≤ 4 :=
  ⟨reset_quiet, rfl, rfl, rfl, fun _ h1 h4 => ⟨rfl, h1, h4⟩⟩

end Sys2Proof.Tests
end

/-! SUPPORT. Proofs of the obligations about scope: the block's turn and the host's are apart (R8, R31). -/

namespace Sys2Proof.Proofs

open Sys2Proof Sys2Proof.Machine Sys2Proof.Laws

/-! ### What lies outside the block -/

/-- The host's part of the state and the platform registers are the same. -/
def SameOutside (s t : State) : Prop := SameHost s t ∧ SamePlatform s t

theorem SameOutside.trans {s t u : State} (hst : SameOutside s t) (htu : SameOutside t u) :
    SameOutside s u := by
  obtain ⟨host, platform⟩ := hst
  obtain ⟨host', platform'⟩ := htu
  exact ⟨⟨host'.hostPos.trans host.hostPos, host'.pending.trans host.pending,
      host'.received.trans host.received, host'.vars.trans host.vars,
      host'.shown.trans host.shown, host'.writes.trans host.writes⟩,
    ⟨platform'.bridgeReady.trans platform.bridgeReady, platform'.cfgAddr.trans platform.cfgAddr,
      platform'.lpcWin.trans platform.lpcWin, platform'.isaWin.trans platform.isaWin⟩⟩

theorem sameOutside_tickReset (s : State) : SameOutside s (tickReset s) := by
  constructor <;> constructor <;> rfl

theorem sameOutside_clearCmd (s : State) : SameOutside s { s with cmd := none } := by
  constructor <;> constructor <;> rfl

theorem sameOutside_respond (r : Record) (s : State) : SameOutside s (respond r s) := by
  constructor <;> constructor <;> rfl

theorem sameOutside_beginScan (base mask : Port) (s : State) :
    SameOutside s (beginScan base mask s) := by
  constructor <;> constructor <;> rfl

theorem sameOutside_blockMove (s : State) : SameOutside s (blockMove s) := by
  rw [blockMove, blockMoveBy_frame]
  constructor <;> constructor <;> rfl

theorem sameOutside_of_exec {i : Instr} {s t : State} (h : exec i s = .next t) : SameOutside s t := by
  rcases exec_cases i s with ⟨r, -, e⟩ | ⟨base, mask, -, e⟩
  · obtain rfl := Host.Outcome.next.inj (e.symm.trans h)
    exact sameOutside_respond r s
  · obtain rfl := Host.Outcome.next.inj (e.symm.trans h)
    exact sameOutside_beginScan base mask s

/-! ### The block has the turn from a command's presentation to its last record -/

theorem nextAgent_eq_block_iff (s : State) :
    nextAgent s = .block ↔ s.busy = true ∨ s.cmd ≠ none := by
  cases hb : s.busy with
  | true => simp [nextAgent, hb]
  | false => simp [nextAgent, hb, Option.isSome_iff_ne_none]

/-- On the block's turn the host's program is not read. -/
theorem advance_of_blockTurn {s : State} (hr : s.resetIn ≠ some 0) (ha : nextAgent s = .block)
    (prog : List HostAction) : advance prog s = blockTurn (tickReset s) := by
  have ha' : nextAgent (tickReset s) = .block := ha
  simp [advance, hr, agentTurn, ha']

/-- The block accepts the command and runs it, or makes one move; neither reaches outside the block. -/
theorem sameOutside_of_advance {prog : List HostAction} {s t : State} (hr : s.resetIn ≠ some 0)
    (hs : s.busy = true ∨ s.cmd ≠ none) (h : advance prog s = .next t) : SameOutside s t := by
  have tick := sameOutside_tickReset s
  rcases advance_cases h with ⟨hr0, -⟩ | ⟨c, i, -, -, -, -, he⟩ | ⟨-, -, rfl⟩ | ⟨-, hc, hb, -⟩
  case inl => exact absurd hr0 hr
  case inr.inl => exact tick.trans ((sameOutside_clearCmd _).trans (sameOutside_of_exec he))
  case inr.inr.inl => exact tick.trans (sameOutside_blockMove _)
  case inr.inr.inr => simp [hc, hb] at hs

/-- Settles O52: on the block's turn the step is `blockTurn`, which takes no program, and stays inside the block. -/
theorem hostActsOnlyBetweenOperations : Obligations.HostActsOnlyBetweenOperations := by
  intro s hr hs
  refine ⟨fun prog prog' => ?_, fun prog t h => sameOutside_of_advance hr hs h⟩
  have ha : nextAgent s = .block := (nextAgent_eq_block_iff s).mpr hs
  rw [advance_of_blockTurn hr ha prog, advance_of_blockTurn hr ha prog']

end Sys2Proof.Proofs

/-! SUPPORT. Proofs of the obligations about the state: the invariant (R14, R15, R43, R66), the length of the scan, the predicate's laws, reset, and what reaches the platform. -/

namespace Sys2Proof.Proofs

open Sys2Proof Sys2Proof.Machine Sys2Proof.Laws

/-! ### Three ways to meet the invariant -/

/-- The invariant speaks of the block's registers and of the records alone. -/
theorem inv_of_sameBlock {s t : State} (h : s.Inv) (block : SameBlock s t)
    (hresp : ∀ r ∈ t.resp, r.wellFormed = true) (hrec : ∀ r ∈ t.received, r.wellFormed = true) :
    t.Inv := by
  obtain ⟨hB, hM, hP, hopen, hstart, hlast, hbusy⟩ := block
  constructor
  case scan_le => rw [hP]; exact h.scan_le
  case idle_closed => rw [hbusy, hopen]; exact h.idle_closed
  case open_below => rw [hopen, hlast, hP]; exact h.open_below
  case open_ordered => rw [hopen, hstart, hlast]; exact h.open_ordered
  case open_matches => rw [hopen, hstart, hlast, hB, hM]; exact h.open_matches
  case resp_ok => exact hresp
  case received_ok => exact hrec

/-- With no run open, all but the bound on `P` and the records holds of itself. -/
theorem inv_of_runClosed {s : State} (ho : s.runOpen = false) (hP : s.scanP.toNat ≤ 0x10000)
    (hresp : ∀ r ∈ s.resp, r.wellFormed = true) (hrec : ∀ r ∈ s.received, r.wellFormed = true) :
    s.Inv where
  scan_le := hP
  idle_closed _ := ho
  open_below hopen := by simp [ho] at hopen
  open_ordered hopen := by simp [ho] at hopen
  open_matches hopen := by simp [ho] at hopen
  resp_ok := hresp
  received_ok := hrec

/-- A well-formed record placed at the end of the port keeps the invariant. -/
theorem inv_respond {s : State} (h : s.Inv) {r : Record} (hr : r.wellFormed = true) :
    (respond r s).Inv := by
  refine inv_of_sameBlock h (by constructor <;> rfl) ?_ h.received_ok
  simpa [or_imp, forall_and, hr] using h.resp_ok

/-- Settles O41: the block is reset with no run open, `P` at 0 and no record anywhere. -/
theorem invariantHoldsAtReset : Obligations.InvariantHoldsAtReset :=
  inv_of_runClosed rfl (by decide) (by simp [State.reset]) (by simp [State.reset])

theorem inv_resetTurn {s : State} (h : s.Inv) : (resetTurn s).Inv :=
  inv_of_runClosed rfl (by simp) (by simp) (by simpa using h.received_ok)

theorem inv_beginScan {s : State} (h : s.Inv) (base mask : Port) : (beginScan base mask s).Inv :=
  inv_of_runClosed rfl (show ((0#17).toNat ≤ 0x10000) by decide) h.resp_ok h.received_ok

theorem inv_exec {i : Instr} {s t : State} (h : s.Inv) (he : exec i s = .next t) : t.Inv := by
  rcases exec_cases i s with ⟨r, hr, e⟩ | ⟨base, mask, -, e⟩
  · obtain rfl := Host.Outcome.next.inj (e.symm.trans he)
    exact inv_respond h hr
  · obtain rfl := Host.Outcome.next.inj (e.symm.trans he)
    exact inv_beginScan h base mask

/-! ### The scan keeps the invariant -/

/-- An address below the end of the scan fits the 16 bits the predicate is asked about. -/
theorem toNat_testedPort {P : ScanAddr} (h : P.toNat < 0x10000) :
    (P.setWidth 16 : Port).toNat = P.toNat := by
  rw [BitVec.toNat_setWidth, Nat.mod_eq_of_lt h]

theorem toNat_scanP_succ {P : ScanAddr} (h : P.toNat < 0x10000) : (P + 1#17).toNat = P.toNat + 1 := by
  rw [BitVec.toNat_add, BitVec.toNat_ofNat]
  omega

theorem scanP_lt_of_ne_end {s : State} (h : s.Inv) (hP : s.scanP ≠ 0x10000#17) :
    s.scanP.toNat < 0x10000 :=
  lt_of_le_of_ne h.scan_le fun e => hP (BitVec.eq_of_toNat_eq e)

theorem extendsRun_iff (s : State) (p : Port) :
    extendsRun s p = true ↔ s.runOpen = true ∧ p.toNat = s.runLast.toNat + 1 := by
  have hl := s.runLast.isLt
  have hsucc : (s.runLast.setWidth 17 + 1#17).toNat = s.runLast.toNat + 1 := by
    rw [BitVec.toNat_add, BitVec.toNat_setWidth_of_le (by decide), BitVec.toNat_ofNat]
    omega
  rw [extendsRun, Bool.and_eq_true, beq_iff_eq, ← BitVec.toNat_inj, hsucc,
    BitVec.toNat_setWidth_of_le (by decide)]

/-- The open run, if there is one, is a run, so its record is well formed. -/
theorem inv_emitOpenRun {s : State} (h : s.Inv) : (emitOpenRun s).Inv := by
  cases ho : s.runOpen with
  | false => rw [emitOpenRun_closed ho]; exact h
  | true =>
    rw [emitOpenRun_open ho]
    exact inv_respond h (by simpa [Record.wellFormed, Run.wellFormed] using h.open_ordered ho)

theorem sameBlock_emitOpenRun (s : State) : SameBlock s (emitOpenRun s) := by
  cases ho : s.runOpen with
  | false => rw [emitOpenRun_closed ho]; constructor <;> rfl
  | true => rw [emitOpenRun_open ho]; constructor <;> rfl

theorem inv_finishScan {s : State} (h : s.Inv) : (finishScan s).Inv := by
  have emitted := inv_respond (inv_emitOpenRun h) (r := .done) rfl
  exact inv_of_runClosed rfl emitted.scan_le emitted.resp_ok emitted.received_ok

/-- No match at `P`: the open run stays below the next address. -/
theorem inv_scanStep_miss {s : State} (h : s.Inv) (hP : s.scanP.toNat < 0x10000) :
    (scanStep false s).Inv := by
  have hP' := toNat_scanP_succ hP
  rw [scanStep_miss]
  exact { h with
    scan_le := by simp only [hP']; omega
    open_below := fun ho => by simp only [hP']; have := h.open_below ho; omega }

/-- A match at `LAST + 1`: the open run grows by that one address. -/
theorem inv_scanStep_extend {s : State} (h : s.Inv) (hP : s.scanP.toNat < 0x10000)
    (he : extendsRun s (s.scanP.setWidth 16) = true)
    (hit : portMatches Config.printed s.latchB s.latchM (s.scanP.setWidth 16) = true) :
    (scanStep true s).Inv := by
  have hP' := toNat_scanP_succ hP
  have hp := toNat_testedPort hP
  obtain ⟨ho, hnext⟩ := (extendsRun_iff s _).mp he
  have hord := BitVec.le_def.mp (h.open_ordered ho)
  rw [scanStep_extend he]
  exact { h with
    scan_le := by simp only [hP']; omega
    open_below := fun _ => by simp only [hP', hp]; omega
    open_ordered := fun _ => BitVec.le_def.mpr (by simp only; omega)
    open_matches := fun _ q hq hq' => by
      rcases eq_or_ne q (s.scanP.setWidth 16) with rfl | hne
      · exact hit
      · have hlt : q.toNat < (s.scanP.setWidth 16).toNat :=
          lt_of_le_of_ne (BitVec.le_def.mp hq') (fun e => hne (BitVec.eq_of_toNat_eq e))
        exact h.open_matches ho q hq (BitVec.le_def.mpr (by omega)) }

/-- A match anywhere else: what was open is emitted and the new run is the one address tested. -/
theorem inv_openRunAt {s : State} (h : s.Inv) (hb : s.busy = true) (hP : s.scanP.toNat < 0x10000)
    (hit : portMatches Config.printed s.latchB s.latchM (s.scanP.setWidth 16) = true) :
    State.Inv { openRunAt (s.scanP.setWidth 16) s with scanP := s.scanP + 1#17 } where
  scan_le := by simp only [toNat_scanP_succ hP]; omega
  idle_closed hidle := by simp [hb] at hidle
  open_below _ := by simp [toNat_scanP_succ hP, toNat_testedPort hP, -BitVec.toNat_setWidth]
  open_ordered _ := BitVec.le_refl _
  open_matches _ q hq hq' := by
    obtain rfl := BitVec.le_antisymm hq' hq
    exact hit
  resp_ok := h.resp_ok
  received_ok := h.received_ok

theorem inv_scanStep {s : State} (h : s.Inv) (hb : s.busy = true) (hP : s.scanP ≠ 0x10000#17) :
    (scanStep (portMatches Config.printed s.latchB s.latchM (s.scanP.setWidth 16)) s).Inv := by
  have hlt := scanP_lt_of_ne_end h hP
  cases hit : portMatches Config.printed s.latchB s.latchM (s.scanP.setWidth 16) with
  | false => exact inv_scanStep_miss h hlt
  | true =>
    cases he : extendsRun s (s.scanP.setWidth 16) with
    | true => exact inv_scanStep_extend h hlt he hit
    | false =>
      obtain ⟨hB, hM, hP', -, -, -, hbusy⟩ := sameBlock_emitOpenRun s
      rw [scanStep_open he, ← hP']
      exact inv_openRunAt (inv_emitOpenRun h) (hbusy.trans hb) (by rwa [hP']) (by rwa [hB, hM, hP'])

theorem inv_blockMove {s : State} (h : s.Inv) : (blockMove s).Inv := by
  rcases blockMoveBy_cases (portMatches Config.printed s.latchB s.latchM) s with
    ⟨-, e⟩ | ⟨-, -, e⟩ | ⟨hb, hP, e⟩
  · rw [blockMove, e]; exact h
  · rw [blockMove, e]; exact inv_finishScan h
  · rw [blockMove, e]; exact inv_scanStep h hb hP

/-! ### The host keeps the invariant -/

theorem inv_dequeueAction {s : State} (h : s.Inv) : (dequeueAction s).Inv :=
  inv_of_sameBlock h (by constructor <;> simp) (by simpa using h.resp_ok) (by simpa using h.received_ok)

/-- A record taken is one that stood on the port; no other action touches the block or the records. -/
theorem inv_hostAct {a : HostAction} {s t : State} (h : s.Inv) (ht : hostAct a s = .next t) : t.Inv := by
  rcases hostAct_cases ht with ⟨p, rfl⟩ | ⟨c, -, rfl⟩ | ⟨p, r, rs, hresp, rfl⟩ | ⟨after, -, rfl⟩ |
    ⟨-, rfl⟩ | ⟨i, -, rfl⟩ | ⟨i, which, -, rfl⟩
  case inr.inr.inl =>
    have hwf := h.resp_ok
    simp only [hresp, List.forall_mem_cons] at hwf
    refine inv_of_sameBlock h (by constructor <;> rfl) hwf.2 ?_
    simpa [or_imp, forall_and, hwf.1] using h.received_ok
  all_goals exact inv_of_sameBlock h (by constructor <;> rfl) h.resp_ok h.received_ok

theorem inv_hostTurn {prog : List HostAction} {s t : State} (h : s.Inv)
    (ht : hostTurn prog s = .next t) : t.Inv := by
  rcases hostTurn_cases prog s with ⟨-, e⟩ | ⟨a, -, e⟩
  · obtain rfl := Host.Outcome.next.inj (e.symm.trans ht)
    exact h
  · exact inv_hostAct (inv_dequeueAction h) (e.symm.trans ht)

/-! ### The step keeps the invariant -/

theorem inv_tickReset {s : State} (h : s.Inv) : (tickReset s).Inv :=
  inv_of_sameBlock h (by constructor <;> rfl) h.resp_ok h.received_ok

theorem inv_clearCmd {s : State} (h : s.Inv) : State.Inv { s with cmd := none } :=
  inv_of_sameBlock h (by constructor <;> rfl) h.resp_ok h.received_ok

theorem inv_advance {prog : List HostAction} {s t : State} (h : s.Inv)
    (ht : advance prog s = .next t) : t.Inv := by
  have tick := inv_tickReset h
  rcases advance_cases ht with ⟨-, rfl⟩ | ⟨c, i, -, -, -, -, he⟩ | ⟨-, -, rfl⟩ | ⟨-, -, -, hh⟩
  · exact inv_resetTurn h
  · exact inv_exec (inv_clearCmd tick) he
  · exact inv_blockMove tick
  · exact inv_hostTurn tick hh

/-- Settles O42: each kind of step keeps the invariant, whatever the host's program, the machine's own among them. -/
theorem everyStepKeepsTheInvariant : Obligations.EveryStepKeepsTheInvariant :=
  ⟨fun _ _ h ht => inv_advance h ht, fun _ _ _ h ht => inv_advance h ht⟩

/-! ### The scan runs to the top of the port space -/

theorem scanStep_done_mem_iff (hit : Bool) (s : State) :
    Record.done ∈ (scanStep hit s).resp ↔ Record.done ∈ s.resp := by
  rcases scanStep_resp hit s with e | ⟨-, e⟩ <;> simp [e]

/-- A move of a busy block whose `P` has not reached the end is a scan step, whatever its range. -/
theorem exists_blockMove_eq_scanStep {s : State} (hb : s.busy = true) (hP : s.scanP ≠ 0x10000#17) :
    ∃ hit, blockMove s = scanStep hit s := by
  rcases blockMoveBy_cases (portMatches Config.printed s.latchB s.latchM) s with
    ⟨hb', -⟩ | ⟨-, hP', -⟩ | ⟨-, -, e⟩
  · simp [hb] at hb'
  · exact absurd hP' hP
  · exact ⟨_, e⟩

theorem blockMove_of_scanEnd {s : State} (hb : s.busy = true) (hP : s.scanP = 0x10000#17) :
    blockMove s = finishScan s := by
  rcases blockMoveBy_cases (portMatches Config.printed s.latchB s.latchM) s with
    ⟨hb', -⟩ | ⟨-, -, e⟩ | ⟨-, hP', -⟩
  · simp [hb] at hb'
  · exact e
  · exact absurd hP hP'

/-- The first `n` moves are scan steps, for as long as `n` addresses are left. -/
theorem blockMoves_beginScan (base mask : Port) (s : State) (n : Nat) (hn : n ≤ 65536) :
    (blockMoves n (beginScan base mask s)).scanP = BitVec.ofNat 17 n ∧
      (blockMoves n (beginScan base mask s)).busy = true ∧
      (Record.done ∈ (blockMoves n (beginScan base mask s)).resp ↔ Record.done ∈ s.resp) := by
  induction n with
  | zero => exact ⟨rfl, rfl, Iff.rfl⟩
  | succ n ih =>
    obtain ⟨hP, hb, hdone⟩ := ih (by omega)
    have hend : (blockMoves n (beginScan base mask s)).scanP ≠ 0x10000#17 := by
      rw [hP, ne_eq, ← BitVec.toNat_inj, BitVec.toNat_ofNat, BitVec.toNat_ofNat]
      omega
    obtain ⟨hit, e⟩ := exists_blockMove_eq_scanStep hb hend
    rw [blockMoves_succ, e, scanStep_done_mem_iff, scanStep_frame]
    exact ⟨by rw [hP, BitVec.ofNat_add], hb, hdone⟩

theorem finishScan_resp (s : State) : ∃ xs, (finishScan s).resp = s.resp ++ xs ++ [.done] := by
  rw [finishScan_frame]
  cases s.runOpen with
  | false => exact ⟨[], by simp⟩
  | true => exact ⟨[.run ⟨s.runStart, s.runLast⟩], by simp⟩

/-- Settles O22: every move before `P` is `0x10000` is a scan step, and the move there is the finish. -/
theorem scanRunsToTheTopOfThePortSpace : Obligations.ScanRunsToTheTopOfThePortSpace := by
  intro base mask s
  obtain ⟨hP, hb, -⟩ := blockMoves_beginScan base mask s 65536 le_rfl
  have hlast : blockMoves 65537 (beginScan base mask s) =
      finishScan (blockMoves 65536 (beginScan base mask s)) :=
    (blockMoves_succ 65536 _).trans (blockMove_of_scanEnd hb hP)
  refine ⟨blockMoves_beginScan base mask s, ?_, ?_⟩
  · rw [hlast, finishScan_frame]
  · rw [hlast]
    exact finishScan_resp _

/-! ### The predicate, for any constants -/

theorem or_and_not_self {w : Nat} (p e : BitVec w) : (p ||| e) &&& ~~~e = p &&& ~~~e := by
  ext i hi
  cases he : e[i] <;> simp [he]

theorem and_not_or_self {w : Nat} (p e : BitVec w) : (p &&& ~~~e) ||| e = p ||| e := by
  ext i hi
  cases he : e[i] <;> simp [he]

/-- Setting the bits of `e` in two words tells them apart exactly as clearing those bits does. -/
theorem or_right_inj_iff_and_not_inj {w : Nat} (p b e : BitVec w) :
    p ||| e = b ||| e ↔ p &&& ~~~e = b &&& ~~~e := by
  constructor
  · intro h
    rw [← or_and_not_self p, h, or_and_not_self]
  · intro h
    rw [← and_not_or_self p, h, and_not_or_self]

/-- The bits outside `e` in which two words differ are none iff the words agree there. -/
theorem xor_and_not_eq_zero_iff {w : Nat} (p b e : BitVec w) :
    (p ^^^ b) &&& ~~~e = 0#w ↔ p &&& ~~~e = b &&& ~~~e := by
  have distrib : (p ^^^ b) &&& ~~~e = (p &&& ~~~e) ^^^ (b &&& ~~~e) := by
    ext i hi
    simp [Bool.and_xor_distrib_right]
  rw [distrib, BitVec.xor_eq_zero_iff]

/-- A port matches iff it has the base's canonical identity (R12). -/
theorem portMatches_iff_canonicalBase_eq (k : Config) (base mask p : Port) :
    portMatches k base mask p = true ↔ canonicalBase k p mask = canonicalBase k base mask := by
  rw [portMatches, beq_iff_eq, or_right_inj_iff_and_not_inj, canonicalBase, canonicalBase]

theorem portMatches_comm (k : Config) (base mask p : Port) :
    portMatches k base mask p = portMatches k p mask base := by
  rw [portMatches, portMatches, BEq.comm]

/-- The all-ones mask frees every bit. -/
theorem portMatches_allOnes (k : Config) (base p : Port) : portMatches k base 0xFFFF#16 p = true := by
  have hem : effMask k 0xFFFF#16 = BitVec.allOnes 16 := BitVec.allOnes_or
  rw [portMatches, hem, BitVec.or_allOnes, BitVec.or_allOnes, beq_self_eq_true]

/-- Settles O18: each form says that port and base agree outside the effective mask. -/
theorem predicateLawsForAnyConstants : Obligations.PredicateLawsForAnyConstants := by
  intro k base mask p
  refine ⟨?_, portMatches_iff_canonicalBase_eq k base mask p, portMatches_comm k base mask p,
    beq_self_eq_true _, portMatches_allOnes k base p⟩
  rw [portMatches_iff_canonicalBase_eq, canonicalBase, canonicalBase, xor_and_not_eq_zero_iff]

/-! ### Operations that read no state -/

/-- Settles O30: each of the four places the record of its own formula; EXPAND is excluded. -/
theorem combinationalOperationsReadNoState : Obligations.CombinationalOperationsReadNoState := by
  intro i hi
  cases i with
  | enclpc base mask => exact ⟨_, fun _ => rfl⟩
  | declpc word => exact ⟨_, fun _ => rfl⟩
  | encisa base mask => exact ⟨_, fun _ => rfl⟩
  | matchPort base mask p => exact ⟨_, fun _ => rfl⟩
  | expand base mask => exact absurd rfl (hi base mask)

/-! ### What reaches the platform -/

/-- On the host's turn the platform registers change by the host's own two writes, each to its own chip. -/
theorem hostTurn_platform {prog : List HostAction} {s t : State} (h : hostTurn prog s = .next t) :
    t.bridgeReady = s.bridgeReady ∧
      ((SamePlatform s t ∧ t.writes = s.writes) ∨
       (∃ i, nextAction prog s = some (.writeLpc i) ∧ t.isaWin = s.isaWin) ∨
       (∃ i which, nextAction prog s = some (.writeIsa i which) ∧
          t.lpcWin = s.lpcWin ∧ t.cfgAddr = s.cfgAddr)) := by
  rcases hostTurn_cases prog s with ⟨-, e⟩ | ⟨a, ha, e⟩
  · obtain rfl := Host.Outcome.next.inj (e.symm.trans h)
    exact ⟨rfl, .inl ⟨⟨rfl, rfl, rfl, rfl⟩, rfl⟩⟩
  · rcases hostAct_cases (e.symm.trans h) with ⟨p, rfl⟩ | ⟨c, -, rfl⟩ | ⟨p, r, rs, -, rfl⟩ |
      ⟨after, -, rfl⟩ | ⟨-, rfl⟩ | ⟨i, rfl, rfl⟩ | ⟨i, which, rfl, rfl⟩
    case inr.inr.inr.inr.inr.inr.inl => exact ⟨by simp, .inr (.inl ⟨i, ha, by simp⟩)⟩
    case inr.inr.inr.inr.inr.inr.inr => exact ⟨by simp, .inr (.inr ⟨i, which, ha, by simp, by simp⟩)⟩
    all_goals exact ⟨by simp, .inl ⟨by constructor <;> simp, by simp⟩⟩

/-- Settles O44: the reset and the block's turn stay off the platform, and the host's turn comes only between operations. -/
theorem onlyHostWritesReachThePlatform : Obligations.OnlyHostWritesReachThePlatform := by
  intro prog s t h
  by_cases hr : s.resetIn = some 0
  · obtain rfl := Host.Outcome.next.inj ((advance_of_reset hr prog).symm.trans h)
    exact ⟨rfl, .inl ⟨⟨rfl, rfl, rfl, rfl⟩, rfl⟩⟩
  by_cases hs : s.busy = true ∨ s.cmd ≠ none
  · obtain ⟨host, platform⟩ := sameOutside_of_advance hr hs h
    exact ⟨platform.bridgeReady, .inl ⟨platform, host.writes⟩⟩
  · simp only [not_or, ne_eq, not_not, Bool.not_eq_true] at hs
    obtain ⟨hb, hc⟩ := hs
    rw [advance_of_host hr hc hb] at h
    obtain ⟨hready, ⟨hp, hw⟩ | hwrite⟩ := hostTurn_platform h
    · exact ⟨hready, .inl ⟨⟨hp.bridgeReady, hp.cfgAddr, hp.lpcWin, hp.isaWin⟩, hw⟩⟩
    · exact ⟨hready, .inr ⟨hc, hb, hwrite⟩⟩

/-! ### Idle and reset -/

/-- Settles O36: the step is the host's turn, and the host has none to take. -/
theorem idleBlockExecutesNothing : Obligations.IdleBlockExecutesNothing := by
  intro prog s hc hb hr hn
  rw [advance_of_host (by simp [hr]) hc hb, tickReset_of_none hr, hostTurn, hn]

/-- Settles O37, by evaluating the reset state. -/
theorem resetValuesOfTheBlock : Obligations.ResetValuesOfTheBlock :=
  ⟨rfl, rfl, rfl, rfl, rfl, rfl⟩

/-- Settles O38: the step is the reset's, which leaves the block idle, so it moves no more. -/
theorem resetAbandonsAnExpansion : Obligations.ResetAbandonsAnExpansion := by
  intro prog s hr
  have idle : blockMove (resetTurn s) = resetTurn s := blockMove_idle (resetTurn_busy s)
  exact ⟨resetTurn s, advance_of_reset hr prog, rfl, rfl, rfl, rfl, rfl, idle, rfl,
    ⟨rfl, rfl, rfl, rfl⟩, rfl, rfl, rfl, rfl, rfl, rfl, rfl⟩

end Sys2Proof.Proofs

/-! SUPPORT. Proofs of the obligations about what is written and where: the steps of an expansion (R31, R38, R66), the frame of every operation (R22, R44), the window map (R28). -/

namespace Sys2Proof.Proofs

open Sys2Proof Sys2Proof.Machine Sys2Proof.Laws

/-! ### The steps of an expansion -/

/-- An accepted EXPAND keeps the block busy before each of its 65 537 moves. -/
theorem blockMoves_beginScan_busy (base mask : Port) (s : State) (n : Nat) (hn : n < 65537) :
    (blockMoves n (beginScan base mask s)).busy = true := by
  obtain ⟨-, hb, -⟩ := blockMoves_beginScan base mask s n (by omega)
  exact hb

/-- Settles O21: the block is busy before each of the 65 537 moves, so each step is its move, for the machine's own program too. -/
theorem expandRunsToDoneOnItsOwn : Obligations.ExpandRunsToDoneOnItsOwn := by
  intro base mask s hr
  rw [coreRun_eq]
  exact runSteps_busy Config.hostProgram 65537 hr (blockMoves_beginScan_busy base mask s)

/-! ### The frame of every operation -/

theorem sameBlock_respond (r : Record) (s : State) : SameBlock s (respond r s) := by
  constructor <;> rfl

/-- Settles O31: four operations do no more than place one record; EXPAND's acceptance writes `B`, `M`, `BUSY`, `P` and `OPEN` alone. -/
theorem frameOfEveryOperation : Obligations.FrameOfEveryOperation := by
  intro i s t h
  obtain ⟨host, platform⟩ := sameOutside_of_exec h
  refine ⟨host, platform, ?_⟩
  cases i with
  | enclpc _ _ | declpc _ | encisa _ _ | matchPort _ _ _ =>
    obtain rfl := Host.Outcome.next.inj h
    exact ⟨rfl, rfl, ⟨_, rfl⟩, sameBlock_respond _ s⟩
  | expand base mask =>
    obtain rfl := Host.Outcome.next.inj h
    exact ⟨rfl, rfl, ⟨[], by simp⟩, rfl, rfl, rfl⟩

/-! ### The window map -/

/-- The bridge finds one register at an index, so no two registers share one. -/
theorem isaIndex_injective {i j : Fin 4} {a b : IsaByte}
    (h : isaIndex Config.printed i a = isaIndex Config.printed j b) : i = j ∧ a = b := by
  have slots : some (i, a) = some (j, b) := by
    rw [← isaRegisterAt_table i a, h, isaRegisterAt_table j b]
  simpa using slots

/-- Settles O45: the rows by evaluating the tables, the indices apart because the bridge tells the registers apart. -/
theorem windowMapRows : Obligations.WindowMapRows :=
  ⟨⟨rfl, rfl, rfl, rfl⟩, ⟨rfl, rfl, rfl, rfl⟩, ⟨rfl, rfl, rfl, rfl⟩, ⟨rfl, rfl, rfl, rfl⟩,
    fun _ _ _ _ h => isaIndex_injective h⟩

end Sys2Proof.Proofs

/-! SUPPORT. Proofs of the obligations about command words: the encoder, the decoder and the opcode table (R37, R39, R46, R51). -/

namespace Sys2Proof.Proofs

open Sys2Proof Sys2Proof.Machine Sys2Proof.Laws

/-! ### A command is its four fields (R37) -/

theorem mkCommand_fields (c : Command) :
    mkCommand (opField c) (pField c) (maskField c) (baseField c) = c :=
  calc opField c ++ pField c ++ maskField c ++ baseField c
    _ = c.extractLsb' 32 19 ++ maskField c ++ baseField c := by
      rw [opField, pField, BitVec.extractLsb'_append_extractLsb'_eq_extractLsb' (by decide)]
    _ = c.extractLsb' 16 35 ++ baseField c := by
      rw [maskField, BitVec.extractLsb'_append_extractLsb'_eq_extractLsb' (by decide)]
    _ = c.extractLsb' 0 51 := by
      rw [baseField, BitVec.extractLsb'_append_extractLsb'_eq_extractLsb' (by decide)]
    _ = c := BitVec.extractLsb'_eq_self

/-- Masking a command masks each of its fields. -/
theorem and_mkCommand (c : Command) (op : BitVec 3) (p mask base : Port) :
    c &&& mkCommand op p mask base =
      mkCommand (opField c &&& op) (pField c &&& p) (maskField c &&& mask) (baseField c &&& base) := by
  conv_lhs => rw [← mkCommand_fields c]
  unfold mkCommand
  rw [← BitVec.and_append, ← BitVec.and_append, ← BitVec.and_append]

/-- The word field of format W lies over the mask and base fields of formats R and P. -/
theorem wordField_eq_append (c : Command) : wordField c = maskField c ++ baseField c := by
  rw [maskField, baseField, BitVec.extractLsb'_append_extractLsb'_eq_extractLsb' (by decide), wordField]

@[simp] theorem wordField_mkCommand (op : BitVec 3) (p mask base : Port) :
    wordField (mkCommand op p mask base) = mask ++ base := by
  simp [wordField_eq_append]

@[simp] theorem extractLsb'_mask_wordField (c : Command) :
    (wordField c).extractLsb' 16 16 = maskField c :=
  BitVec.extractLsb'_extractLsb'_of_le (by decide)

@[simp] theorem extractLsb'_base_wordField (c : Command) :
    (wordField c).extractLsb' 0 16 = baseField c :=
  BitVec.extractLsb'_extractLsb'_of_le (by decide)

/-! ### What the decoder answers (R39, R46) -/

/-- Settles O1: the decoder's answer for each code, on a command made of the operation's own fields. -/
theorem decodeOfEncodeIsIdentity : Obligations.DecodeOfEncodeIsIdentity := by
  intro i
  cases i with
  | enclpc base mask => simp [encode, decode_enclpc]
  | declpc word =>
    have halves : word.extractLsb' 16 16 ++ word.extractLsb' 0 16 = word :=
      (BitVec.extractLsb'_append_extractLsb'_eq_extractLsb' rfl).trans BitVec.extractLsb'_eq_self
    rw [encode, decode_declpc (opField_mkCommand _ _ _ _), wordField_mkCommand, halves]
  | encisa base mask => simp [encode, decode_encisa]
  | matchPort base mask p => simp [encode, decode_matchPort]
  | expand base mask => simp [encode, decode_expand]

/-- Every command has the code of one of the five operations, or a reserved one. -/
theorem opField_cases (c : Command) :
    opField c = 0#3 ∨ opField c = 1#3 ∨ opField c = 2#3 ∨ opField c = 3#3 ∨ opField c = 4#3 ∨
      5 ≤ (opField c).toNat := by
  simp only [← BitVec.toNat_inj, BitVec.toNat_ofNat]
  omega

/-- A command that decodes has its operation's code, and the encoding of that operation has the command's fields,
`p` among them in format P alone. -/
theorem fields_of_decode {c : Command} {i : Instr} (h : decode c = .ok i) :
    opField c = i.opcode ∧
      encode i = mkCommand (opField c) (if opField c = 3#3 then pField c else 0#16)
        (maskField c) (baseField c) := by
  rcases opField_cases c with hop | hop | hop | hop | hop | hop
  · cases (decode_enclpc hop).symm.trans h
    simp [hop, encode, Instr.opcode]
  · cases (decode_declpc hop).symm.trans h
    simp [hop, encode, Instr.opcode]
  · cases (decode_encisa hop).symm.trans h
    simp [hop, encode, Instr.opcode]
  · cases (decode_matchPort hop).symm.trans h
    simp [hop, encode, Instr.opcode]
  · cases (decode_expand hop).symm.trans h
    simp [hop, encode, Instr.opcode]
  · cases (decode_reserved hop).symm.trans h

theorem and_usedFields (c : Command) :
    c &&& 0x70000FFFFFFFF#51 = mkCommand (opField c) 0#16 (maskField c) (baseField c) := by
  have used : 0x70000FFFFFFFF#51 =
      mkCommand (BitVec.allOnes 3) 0#16 (BitVec.allOnes 16) (BitVec.allOnes 16) := by decide
  rw [used, and_mkCommand]
  simp only [BitVec.and_allOnes, BitVec.and_zero]

/-- Settles O2: the encoding has the command's fields, with `p` cleared outside format P. -/
theorem encodeOfDecodeKeepsUsedFields : Obligations.EncodeOfDecodeKeepsUsedFields := by
  intro c i h
  obtain ⟨-, hfields⟩ := fields_of_decode h
  rw [hfields]
  split
  · exact mkCommand_fields c
  · exact (and_usedFields c).symm

theorem exists_decode_eq_ok_iff (c : Command) : (∃ i, decode c = .ok i) ↔ (opField c).toNat ≤ 4 := by
  constructor
  · rintro ⟨i, h⟩
    by_contra hop
    cases (decode_reserved (by omega)).symm.trans h
  · intro hop
    rcases opField_cases c with h | h | h | h | h | h
    · exact ⟨_, decode_enclpc h⟩
    · exact ⟨_, decode_declpc h⟩
    · exact ⟨_, decode_encisa h⟩
    · exact ⟨_, decode_matchPort h⟩
    · exact ⟨_, decode_expand h⟩
    · omega

/-- Settles O3: a command decodes up to code 4, and above that the decoder names the code. -/
theorem decoderRejectsExactlyReservedCodes : Obligations.DecoderRejectsExactlyReservedCodes := by
  intro c
  refine ⟨exists_decode_eq_ok_iff c, decode_reserved, fun h => ?_⟩
  by_contra hop
  obtain ⟨i, hi⟩ := (exists_decode_eq_ok_iff c).mpr (by omega)
  cases hi.symm.trans h

/-! ### The rows of the table (R51) -/

theorem mnemonic_eq_iff (i j : Instr) : i.mnemonic = j.mnemonic ↔ i.opcode = j.opcode := by
  cases i <;> cases j <;> simp [Instr.mnemonic, Instr.opcode]

theorem opcode_toNat_le (i : Instr) : i.opcode.toNat ≤ 4 := by
  cases i <;> simp [Instr.opcode]

/-- Each row is the name of one operation, its code alone in the place of `op`, and all ones there. -/
theorem opRow_eq {r : OpRow} (h : r ∈ opRows) :
    ∃ j : Instr, r = ⟨j.mnemonic, mkCommand j.opcode 0#16 0#16 0#16,
      mkCommand (BitVec.allOnes 3) 0#16 0#16 0#16⟩ := by
  simp only [opRows, List.mem_cons, List.not_mem_nil, or_false] at h
  rcases h with rfl | rfl | rfl | rfl | rfl
  · exact ⟨.enclpc 0#16 0#16, rfl⟩
  · exact ⟨.declpc 0#32, rfl⟩
  · exact ⟨.encisa 0#16 0#16, rfl⟩
  · exact ⟨.matchPort 0#16 0#16 0#16, rfl⟩
  · exact ⟨.expand 0#16 0#16, rfl⟩

/-- A command decodes to an operation of a given name iff it has that operation's code. -/
theorem decodes_to_mnemonic_iff (c : Command) (j : Instr) :
    (∃ i, decode c = .ok i ∧ i.mnemonic = j.mnemonic) ↔ opField c = j.opcode := by
  constructor
  · rintro ⟨i, hi, hname⟩
    obtain ⟨hop, -⟩ := fields_of_decode hi
    exact hop.trans ((mnemonic_eq_iff i j).mp hname)
  · intro hop
    obtain ⟨i, hi⟩ := (exists_decode_eq_ok_iff c).mpr (hop ▸ opcode_toNat_le j)
    obtain ⟨hop', -⟩ := fields_of_decode hi
    exact ⟨i, hi, (mnemonic_eq_iff i j).mpr (hop'.symm.trans hop)⟩

/-- Settles O4: the row's mask leaves `op` alone, and `op` alone tells which operation the decoder reads. -/
theorem tableRowSelectsWhatDecodes : Obligations.TableRowSelectsWhatDecodes := by
  intro c r hr
  obtain ⟨j, rfl⟩ := opRow_eq hr
  rw [decodes_to_mnemonic_iff, OpRow.selects, beq_iff_eq, and_mkCommand]
  simp only [BitVec.and_allOnes, BitVec.and_zero]
  refine ⟨fun h => ?_, fun h => by rw [h]⟩
  simpa using congrArg opField h

/-! ### The ignored field (R37, D6) -/

/-- Settles O5: outside format P the decoder reads `op`, mask and base, or the word they make up. -/
theorem ignoredFieldHasNoEffect : Obligations.IgnoredFieldHasNoEffect := by
  intro c d hop hne hw
  have hmask : maskField c = maskField d := by
    rw [← extractLsb'_mask_wordField, hw, extractLsb'_mask_wordField]
  have hbase : baseField c = baseField d := by
    rw [← extractLsb'_base_wordField, hw, extractLsb'_base_wordField]
  rcases opField_cases c with h | h | h | h | h | h
  · rw [decode_enclpc h, decode_enclpc (hop ▸ h), hbase, hmask]
  · rw [decode_declpc h, decode_declpc (hop ▸ h), hw]
  · rw [decode_encisa h, decode_encisa (hop ▸ h), hbase, hmask]
  · exact absurd h hne
  · rw [decode_expand h, decode_expand (hop ▸ h), hbase, hmask]
  · rw [decode_reserved h, decode_reserved (hop ▸ h), hop]

/-- Settles O6, by evaluating the decoder on the six words. -/
theorem writtenOutCommandsDecode : Obligations.WrittenOutCommandsDecode :=
  ⟨rfl, rfl, rfl, rfl, rfl, rfl⟩

end Sys2Proof.Proofs

/-! SUPPORT. Proofs of the obligations about the 35 bits of a record (R44, R47, R48). -/

namespace Sys2Proof.Proofs

open Sys2Proof Sys2Proof.Machine Sys2Proof.Laws

/-! ### The kind and the data of a record -/

@[simp] theorem bits_kind (r : Record) : r.bits.extractLsb' 32 3 = r.kind :=
  BitVec.extractLsb'_append_eq_left

/-- Below bit 32 stand the data bits. -/
theorem bits_data (r : Record) {start len : Nat} (h : start + len ≤ 32) :
    r.bits.extractLsb' start len = r.data.extractLsb' start len :=
  BitVec.extractLsb'_append_eq_of_add_le h

@[simp] theorem bits_allData (r : Record) : r.bits.extractLsb' 0 32 = r.data :=
  BitVec.extractLsb'_append_eq_right

/-! ### Where each kind puts its data (R44) -/

theorem range_data (mask base : Port) :
    (Record.range mask base).data.extractLsb' 16 16 = mask ∧
      (Record.range mask base).data.extractLsb' 0 16 = base :=
  ⟨BitVec.extractLsb'_append_eq_left, BitVec.extractLsb'_append_eq_right⟩

theorem triple_data (bl bh mk : Byte) :
    (Record.triple bl bh mk).data.extractLsb' 0 8 = bl ∧
      (Record.triple bl bh mk).data.extractLsb' 8 8 = bh ∧
      (Record.triple bl bh mk).data.extractLsb' 16 8 = mk ∧
      (Record.triple bl bh mk).data.extractLsb' 24 8 = 0#8 := by
  refine ⟨BitVec.extractLsb'_append_eq_right, ?_, ?_, ?_⟩
  · exact (BitVec.extractLsb'_append_eq_of_le (by decide)).trans BitVec.extractLsb'_append_eq_right
  · exact (BitVec.extractLsb'_append_eq_of_le (by decide)).trans
      ((BitVec.extractLsb'_append_eq_of_le (by decide)).trans BitVec.extractLsb'_append_eq_right)
  · exact (BitVec.extractLsb'_append_eq_of_le (by decide)).trans
      ((BitVec.extractLsb'_append_eq_of_le (by decide)).trans BitVec.extractLsb'_append_eq_left)

theorem hit_data (h : Bool) :
    (Record.hit h).data.getLsbD 0 = h ∧ (Record.hit h).data.extractLsb' 1 31 = 0#31 := by
  cases h <;> decide

theorem run_data (r : Run) :
    (Record.run r).data.extractLsb' 16 16 = r.endPort ∧
      (Record.run r).data.extractLsb' 0 16 = r.startPort :=
  ⟨BitVec.extractLsb'_append_eq_left, BitVec.extractLsb'_append_eq_right⟩

/-- Settles O8: each field of the data is a part of what the kind's row appends. -/
theorem recordDataLayout : Obligations.RecordDataLayout := by
  refine ⟨fun w => ⟨bits_allData _, bits_kind _⟩, fun m b => ?_, fun bl bh mk => ?_, fun h => ?_,
    fun r => ?_, rfl⟩
  · obtain ⟨hmask, hbase⟩ := range_data m b
    exact ⟨(bits_data _ (by decide)).trans hmask, (bits_data _ (by decide)).trans hbase, bits_kind _⟩
  · obtain ⟨hlow, hhigh, hmask, hzero⟩ := triple_data bl bh mk
    exact ⟨(bits_data _ (by decide)).trans hlow, (bits_data _ (by decide)).trans hhigh,
      (bits_data _ (by decide)).trans hmask, (bits_data _ (by decide)).trans hzero, bits_kind _⟩
  · obtain ⟨-, hzero⟩ := hit_data h
    exact ⟨by cases h <;> rfl, (bits_data _ (by decide)).trans hzero, bits_kind _⟩
  · obtain ⟨hend, hstart⟩ := run_data r
    exact ⟨(bits_data _ (by decide)).trans hend, (bits_data _ (by decide)).trans hstart, bits_kind _⟩

/-! ### Reading a record back (R47, R48) -/

theorem ofBits_bits (r : Record) : Record.ofBits r.bits = some r := by
  simp only [Record.ofBits, bits_kind, bits_allData]
  cases r with
  | word w => rfl
  | range mask base => simp [Record.kind, range_data]
  | triple bl bh mk => simp [Record.kind, triple_data]
  | hit h =>
    obtain ⟨hbit, hzero⟩ := hit_data h
    simpa [Record.kind, hzero] using hbit
  | run r => simp [Record.kind, run_data]
  | done => rfl

theorem ofBits_unsent_kind {v : BitVec 35} (h : 6 ≤ (v.extractLsb' 32 3).toNat) :
    Record.ofBits v = none := by
  have hlt := (v.extractLsb' 32 3).isLt
  have unsent : (v.extractLsb' 32 3).toNat = 6 ∨ (v.extractLsb' 32 3).toNat = 7 := by omega
  rcases unsent with hk | hk
  · simp only [Record.ofBits, hk]
  · simp only [Record.ofBits, hk]

/-- Settles O7: each kind's fields read back, and no kind is numbered 6 or 7. -/
theorem recordBitsReadBack : Obligations.RecordBitsReadBack :=
  ⟨ofBits_bits, fun _ => ofBits_unsent_kind⟩

end Sys2Proof.Proofs

/-! SUPPORT. Proofs of the obligations about a step: the command port (R38, R46), the records delivered (R44), and where a step stops (R76, R77, R82). -/

namespace Sys2Proof.Proofs

open Sys2Proof Sys2Proof.Machine Sys2Proof.Laws

/-! ### Accepting a command -/

theorem acceptCommand_of_decode {c : Command} {i : Instr} (h : decode c = .ok i) (s : State) :
    acceptCommand c s = exec i { s with cmd := none } := by
  simp [acceptCommand, h]

theorem acceptCommand_reserved {c : Command} (h : 5 ≤ (opField c).toNat) (s : State) :
    acceptCommand c s = .refused (.reservedOp (opField c)) := by
  simp [acceptCommand, decode_reserved h]

/-- Settles O33: the step is the acceptance of the command, which decodes. -/
theorem stepRunsTheDecodedCommand : Obligations.StepRunsTheDecodedCommand := by
  intro s c i hc hb hr hd
  rw [step_eq_advance, advance_of_command hr hc hb, acceptCommand_of_decode hd]

/-- Settles O35: the step is the acceptance of the command, whose code is reserved. -/
theorem reservedCommandIsRefused : Obligations.ReservedCommandIsRefused := by
  intro prog s c hc hb hr hop
  rw [advance_of_command hr hc hb, acceptCommand_reserved hop]

/-! ### A command that waits (R38) -/

theorem emitOpenRun_setCmd (s : State) (c : Option Command) :
    emitOpenRun { s with cmd := c } = { emitOpenRun s with cmd := c } := by
  simp only [emitOpenRun]
  split <;> rfl

theorem finishScan_setCmd (s : State) (c : Option Command) :
    finishScan { s with cmd := c } = { finishScan s with cmd := c } := by
  rw [finishScan_frame, finishScan_frame]

theorem scanStep_setCmd (hit : Bool) (s : State) (c : Option Command) :
    scanStep hit { s with cmd := c } = { scanStep hit s with cmd := c } := by
  cases hit with
  | false => rfl
  | true =>
    cases he : extendsRun s (s.scanP.setWidth 16) with
    | true => rw [scanStep_extend he, scanStep_extend (s := { s with cmd := c }) he]
    | false =>
      rw [scanStep_open he, scanStep_open (s := { s with cmd := c }) he, emitOpenRun_setCmd]
      rfl

/-- No move of the block reads or writes the command port. -/
theorem blockMove_setCmd (s : State) (c : Option Command) :
    blockMove { s with cmd := c } = { blockMove s with cmd := c } := by
  unfold blockMove blockMoveBy
  simp only [finishScan_setCmd, scanStep_setCmd]
  split
  · split <;> rfl
  · rfl

@[simp] theorem blockMove_cmd (s : State) : (blockMove s).cmd = s.cmd := by
  rw [blockMove, blockMoveBy_frame]

/-- Settles O34: the step of a busy block is the reset, or its own move, and neither touches the command port. -/
theorem presentedCommandWaitsWhileBusy : Obligations.PresentedCommandWaitsWhileBusy := by
  refine ⟨fun prog s t c hc hb h => ?_, blockMove_setCmd, fun prog s hb hr => ?_⟩
  · by_cases hr : s.resetIn = some 0
    · obtain rfl := Host.Outcome.next.inj ((advance_of_reset hr prog).symm.trans h)
      exact hc
    · obtain rfl := Host.Outcome.next.inj ((advance_of_busy hr hb prog).symm.trans h)
      rw [blockMove_cmd]
      exact hc
  · rw [advance_of_busy (by simp [hr]) hb, tickReset_of_none hr]

/-! ### Records delivered in order (R44) -/

/-- From `s` to `t` records were only added, at the end of those the host took and those that wait. -/
def RecordsAppended (s t : State) : Prop := ∃ xs, t.received ++ t.resp = s.received ++ s.resp ++ xs

/-- Placing records at the end of the port appends them. -/
theorem recordsAppended_of_resp {s t : State} (hrec : t.received = s.received)
    (hresp : ∃ xs, t.resp = s.resp ++ xs) : RecordsAppended s t := by
  obtain ⟨xs, hresp⟩ := hresp
  exact ⟨xs, by rw [hrec, hresp, List.append_assoc]⟩

theorem blockMove_resp (s : State) : ∃ xs, (blockMove s).resp = s.resp ++ xs := by
  rcases blockMoveBy_cases (portMatches Config.printed s.latchB s.latchM) s with
    ⟨-, e⟩ | ⟨-, -, e⟩ | ⟨-, -, e⟩
  · exact ⟨[], by rw [blockMove, e, List.append_nil]⟩
  · obtain ⟨xs, hxs⟩ := finishScan_resp s
    exact ⟨xs ++ [.done], by rw [blockMove, e, hxs, List.append_assoc]⟩
  · rw [blockMove, e]
    rcases scanStep_resp (portMatches Config.printed s.latchB s.latchM (s.scanP.setWidth 16)) s with
      hresp | ⟨-, hresp⟩
    · exact ⟨[], by rw [hresp, List.append_nil]⟩
    · exact ⟨_, hresp⟩

theorem recordsAppended_blockMove (s : State) : RecordsAppended s (blockMove s) := by
  obtain ⟨host, -⟩ := sameOutside_blockMove s
  exact recordsAppended_of_resp host.received (blockMove_resp s)

theorem recordsAppended_of_exec {i : Instr} {s t : State} (h : exec i s = .next t) :
    RecordsAppended s t := by
  obtain ⟨host, -, -, -, hresp, -⟩ := frameOfEveryOperation i s t h
  exact recordsAppended_of_resp host.received hresp

/-- The host takes the first record that waits, so the order of all stays; no other action touches the records. -/
theorem recordsAppended_of_hostAct {a : HostAction} {s t : State} (h : hostAct a s = .next t) :
    RecordsAppended s t := by
  rcases hostAct_cases h with ⟨p, rfl⟩ | ⟨c, -, rfl⟩ | ⟨p, r, rs, hresp, rfl⟩ | ⟨after, -, rfl⟩ |
    ⟨-, rfl⟩ | ⟨i, -, rfl⟩ | ⟨i, which, -, rfl⟩
  case inr.inr.inl => exact ⟨[], by simp [hresp]⟩
  all_goals exact recordsAppended_of_resp rfl ⟨[], (List.append_nil _).symm⟩

theorem recordsAppended_of_hostTurn {prog : List HostAction} {s t : State}
    (h : hostTurn prog s = .next t) : RecordsAppended s t := by
  rcases hostTurn_cases prog s with ⟨-, e⟩ | ⟨a, -, e⟩
  · obtain rfl := Host.Outcome.next.inj (e.symm.trans h)
    exact recordsAppended_of_resp rfl ⟨[], (List.append_nil _).symm⟩
  · obtain ⟨xs, hxs⟩ := recordsAppended_of_hostAct (e.symm.trans h)
    exact ⟨xs, by simpa using hxs⟩

/-- Settles O39: every step but a reset appends, and the reset empties the port alone. -/
theorem recordsAreDeliveredInOrder : Obligations.RecordsAreDeliveredInOrder := by
  intro prog s t h
  rcases advance_cases h with ⟨hr, rfl⟩ | ⟨c, i, -, -, -, -, he⟩ | ⟨-, -, rfl⟩ | ⟨-, -, -, hh⟩
  · exact .inr ⟨hr, rfl, rfl⟩
  · exact .inl (recordsAppended_of_exec (s := { tickReset s with cmd := none }) he)
  · exact .inl (recordsAppended_blockMove (tickReset s))
  · exact .inl (recordsAppended_of_hostTurn (s := tickReset s) hh)

/-! ### Where a step stops (R46, R76, R77, R82) -/

theorem acceptCommand_eq_refused_iff (c : Command) (s : State) (r : Refusal) :
    acceptCommand c s = .refused r ↔ 5 ≤ (opField c).toNat ∧ r = .reservedOp (opField c) := by
  by_cases hop : 5 ≤ (opField c).toNat
  · simp [acceptCommand_reserved hop, hop, eq_comm]
  · obtain ⟨i, hi⟩ := (exists_decode_eq_ok_iff c).mpr (by omega)
    rcases exec_cases i { s with cmd := none } with ⟨_, -, he⟩ | ⟨_, _, -, he⟩ <;>
      simp [acceptCommand_of_decode hi, he, hop]

theorem numRangesOk_iff (n : Nat) : numRangesOk n = true ↔ 1 ≤ n ∧ n ≤ 4 := by
  rw [numRangesOk, Bool.and_eq_true, decide_eq_true_iff, decide_eq_true_iff]
  rfl

/-- What a host whose next action is `next` can be refused, and for what reason. -/
def RefusedFor (next : Option HostAction) (r : Refusal) : Prop :=
  (∃ i base mask, next = some (.progw i base mask) ∧ 4 ≤ i ∧ r = .noSuchWindow i) ∨
  (∃ numRanges ranges, next = some (.programWindows numRanges ranges) ∧
    (numRanges.getD 4 = 0 ∨ 5 ≤ numRanges.getD 4) ∧ r = .numRangesOutOfRange (numRanges.getD 4))

theorem actProgw_eq_refused_iff (i : Nat) (base mask : Port) (s : State) (r : Refusal) :
    actProgw i base mask s = .refused r ↔ 4 ≤ i ∧ r = .noSuchWindow i := by
  have hn : Config.printed.nwin = 4 := rfl
  by_cases h : i < 4
  · simp [actProgw, hn, h]
  · simp [actProgw, hn, h, Nat.le_of_not_lt h, eq_comm]

theorem actProgramWindows_eq_refused_iff (numRanges : Option Nat) (ranges : PerWindow DecodeRange)
    (s : State) (r : Refusal) :
    actProgramWindows numRanges ranges s = .refused r ↔
      (numRanges.getD 4 = 0 ∨ 5 ≤ numRanges.getD 4) ∧ r = .numRangesOutOfRange (numRanges.getD 4) := by
  have hd : Config.printed.numRangesDefault = 4 := rfl
  by_cases h : numRangesOk (numRanges.getD 4) = true
  · have inBounds : ¬(numRanges.getD 4 = 0 ∨ 5 ≤ numRanges.getD 4) := by
      rw [numRangesOk_iff] at h
      omega
    simp only [actProgramWindows, hd, h, inBounds, if_true, reduceCtorEq, false_and]
  · have outOfBounds : numRanges.getD 4 = 0 ∨ 5 ≤ numRanges.getD 4 := by
      rw [numRangesOk_iff] at h
      omega
    simp only [actProgramWindows, hd, h, outOfBounds, Bool.false_eq_true, if_false,
      Host.Outcome.refused.injEq, true_and]
    exact eq_comm

theorem hostAct_eq_refused_iff (a : HostAction) (s : State) (r : Refusal) :
    hostAct a s = .refused r ↔ RefusedFor (some a) r := by
  cases a with
  | progw i base mask => simp [hostAct, RefusedFor, actProgw_eq_refused_iff]
  | programWindows numRanges ranges => simp [hostAct, RefusedFor, actProgramWindows_eq_refused_iff]
  | take => simp only [hostAct, actTake, RefusedFor]; split <;> simp
  | takeToDone => simp only [hostAct, actTakeToDone, RefusedFor]; split <;> simp
  | showRange base mask => simp only [hostAct, actShow, RefusedFor]; split <;> simp
  | present c => simp [hostAct, actPresent, RefusedFor]
  | reset after => simp [hostAct, actReset, RefusedFor]
  | display => simp [hostAct, actDisplay, RefusedFor]
  | writeLpc i => simp [hostAct, actWriteLpc, RefusedFor]
  | writeIsa i which => simp [hostAct, actWriteIsa, RefusedFor]

theorem hostTurn_eq_refused_iff (prog : List HostAction) (s : State) (r : Refusal) :
    hostTurn prog s = .refused r ↔ RefusedFor (nextAction prog s) r := by
  rcases hostTurn_cases prog s with ⟨hn, e⟩ | ⟨a, hn, e⟩
  · simp [e, hn, RefusedFor]
  · rw [e, hn, hostAct_eq_refused_iff]

/-- Settles O43: no reason for a fault exists; the reset input and a busy block never refuse, the block refuses a
reserved command it accepts, and the host's turn an action out of bounds. -/
theorem stepStopsOnlyWhere : Obligations.StepStopsOnlyWhere := by
  intro prog s
  refine ⟨nofun, fun r => ?_⟩
  have hn : nextAction prog (tickReset s) = nextAction prog s := nextAction_congr prog rfl rfl
  by_cases hr : s.resetIn = some 0
  · simp [advance_of_reset hr, hr]
  cases hb : s.busy with
  | true => simp [advance_of_busy hr hb]
  | false =>
    cases hc : s.cmd with
    | some c => simp [advance_of_command hr hc hb, acceptCommand_eq_refused_iff, hr]
    | none =>
      rw [advance_of_host hr hc hb, hostTurn_eq_refused_iff, hn]
      simp [hr, RefusedFor]

end Sys2Proof.Proofs

/-! SUPPORT. Proof of the obligation about the assembler: the printed line of an operation is read back (R49; log 19). -/

namespace Sys2Proof.Proofs

open Sys2Proof Sys2Proof.Machine Sys2Proof.Laws

/-! ### Hexadecimal digits read back -/

theorem hexValue_hexDigit {n : Nat} (h : n < 16) : hexValue (hexDigit n) = some n := by
  have all : ∀ m : Fin 16, hexValue (hexDigit m) = some m.val := by decide
  exact all ⟨n, h⟩

theorem hexNumber_append (acc : Nat) (cs ds : List Char) :
    hexNumber acc (cs ++ ds) = (hexNumber acc cs).bind (fun n => hexNumber n ds) := by
  induction cs generalizing acc with
  | nil => rfl
  | cons c cs ih =>
    simp only [List.cons_append, hexNumber]
    cases hexValue c with
    | none => rfl
    | some d => exact ih _

/-- The low `w` digits of `n` read as `n` cut to `w` digits. -/
theorem hexNumber_hexFixed (w n : Nat) : hexNumber 0 (hexFixed w n) = some (n % 16 ^ w) := by
  induction w generalizing n with
  | zero => simp [hexFixed, hexNumber, Nat.mod_one]
  | succ w ih =>
    have value : n / 16 % 16 ^ w * 16 + n % 16 = n % 16 ^ (w + 1) := by
      rw [Nat.pow_succ', Nat.mod_mul]
      ring
    simp [hexFixed, hexNumber_append, ih, hexNumber, hexValue_hexDigit (Nat.mod_lt n (by decide)), value]

theorem parseOperand_hexFixed {w n : Nat} (hw : hexFixed w n ≠ []) (hn : n < 16 ^ w) :
    parseOperand ('0' :: 'x' :: hexFixed w n) = some n := by
  obtain ⟨d, ds, hds⟩ := List.exists_cons_of_ne_nil hw
  calc parseOperand ('0' :: 'x' :: hexFixed w n)
    _ = hexNumber 0 (hexFixed w n) := by rw [hds, parseOperand]
    _ = some n := by rw [hexNumber_hexFixed, Nat.mod_eq_of_lt hn]

@[simp] theorem parseOperand_portOperand (v : Port) : parseOperand (portOperand v) = some v.toNat :=
  parseOperand_hexFixed (w := 4) (by simp [hexFixed]) v.isLt

@[simp] theorem parseOperand_wordOperand (v : LpcWord) : parseOperand (wordOperand v) = some v.toNat :=
  parseOperand_hexFixed (w := 8) (by simp [hexFixed]) v.isLt

/-! ### The words of a line -/

/-- A character that neither ends a word nor begins a comment. -/
def IsWordChar (c : Char) : Prop := c ≠ ' ' ∧ c ≠ ',' ∧ c ≠ ';' ∧ c ≠ '-'

/-- A word the line is not cut within. -/
def IsWord (w : List Char) : Prop := w ≠ [] ∧ ∀ c ∈ w, IsWordChar c

theorem noComment_of_isWord {w : List Char} (h : IsWord w) : ∀ c ∈ w, c ≠ ';' ∧ c ≠ '-' := by
  intro c hc
  obtain ⟨-, hchars⟩ := h
  obtain ⟨-, -, hsemi, hdash⟩ := hchars c hc
  exact ⟨hsemi, hdash⟩

theorem stripComment_eq_self {l : List Char} (h : ∀ c ∈ l, c ≠ ';' ∧ c ≠ '-') : stripComment l = l := by
  induction l with
  | nil => rfl
  | cons c cs ih =>
    obtain ⟨⟨hsemi, hdash⟩, hcs⟩ := List.forall_mem_cons.mp h
    simp [stripComment, hdash, ih hcs]

/-- The characters of a word are gathered, in reverse. -/
theorem splitWords_append {w : List Char} (hw : ∀ c ∈ w, IsWordChar c) (cur rest : List Char) :
    splitWords cur (w ++ rest) = splitWords (w.reverse ++ cur) rest := by
  induction w generalizing cur with
  | nil => rfl
  | cons c cs ih =>
    obtain ⟨⟨hspace, hcomma, -, -⟩, hcs⟩ := List.forall_mem_cons.mp hw
    simp [splitWords, hspace, hcomma, ih hcs]

theorem splitWords_comma_space (cur rest : List Char) :
    splitWords cur (',' :: ' ' :: rest) = flushWord cur ++ comma :: splitWords [] rest := rfl

theorem flushWord_reverse {w : List Char} (hw : w ≠ []) : flushWord w.reverse = [w] := by
  cases h : w.reverse with
  | nil => simp [hw] at h
  | cons c cs => rw [flushWord, ← h, List.reverse_reverse]

theorem splitWords_word {w : List Char} (hw : IsWord w) : splitWords [] w = [w] := by
  obtain ⟨hne, hchars⟩ := hw
  simpa [splitWords, flushWord_reverse hne] using splitWords_append hchars [] []

theorem splitWords_word_space {w : List Char} (hw : IsWord w) (rest : List Char) :
    splitWords [] (w ++ ' ' :: rest) = w :: splitWords [] rest := by
  obtain ⟨hne, hchars⟩ := hw
  simp [splitWords_append hchars, splitWords, flushWord_reverse hne]

theorem splitWords_word_comma {w : List Char} (hw : IsWord w) (rest : List Char) :
    splitWords [] (w ++ ',' :: ' ' :: rest) = w :: comma :: splitWords [] rest := by
  obtain ⟨hne, hchars⟩ := hw
  simp [splitWords_append hchars, splitWords_comma_space, flushWord_reverse hne]

/-- Operands are split where they were joined. -/
theorem splitWords_joinOperands {ops : List (List Char)} (h : ∀ w ∈ ops, IsWord w) :
    splitWords [] (joinOperands ops) = ops.intersperse comma := by
  induction ops with
  | nil => rfl
  | cons a as ih =>
    obtain ⟨ha, has⟩ := List.forall_mem_cons.mp h
    cases as with
    | nil => exact splitWords_word ha
    | cons b bs =>
      rw [joinOperands, splitWords_word_comma ha, ih has]
      · rfl
      · simp

theorem noComment_joinOperands {ops : List (List Char)} (h : ∀ w ∈ ops, IsWord w) :
    ∀ c ∈ joinOperands ops, c ≠ ';' ∧ c ≠ '-' := by
  induction ops with
  | nil => simp [joinOperands]
  | cons a as ih =>
    obtain ⟨ha, has⟩ := List.forall_mem_cons.mp h
    cases as with
    | nil => exact noComment_of_isWord ha
    | cons b bs =>
      intro c hc
      simp only [joinOperands, List.mem_append, List.mem_cons] at hc
      rcases hc with hc | rfl | rfl | hc
      · exact noComment_of_isWord ha c hc
      · decide
      · decide
      · exact ih has c hc

/-- A line of a name and operands is read as these words, with commas between the operands. -/
theorem assembleLine_words {name : List Char} {ops : List (List Char)} (hname : IsWord name)
    (hops : ∀ w ∈ ops, IsWord w) :
    assembleLine (name ++ ' ' :: joinOperands ops) = parseWords (name :: ops.intersperse comma) := by
  have noComment : stripComment (name ++ ' ' :: joinOperands ops) = name ++ ' ' :: joinOperands ops := by
    refine stripComment_eq_self fun c hc => ?_
    simp only [List.mem_append, List.mem_cons] at hc
    rcases hc with hc | rfl | hc
    · exact noComment_of_isWord hname c hc
    · decide
    · exact noComment_joinOperands hops c hc
  rw [assembleLine, noComment, splitWords_word_space hname, splitWords_joinOperands hops]

/-! ### The printed operations -/

theorem isWordChar_hexDigit {n : Nat} (h : n < 16) : IsWordChar (hexDigit n) := by
  have all : ∀ m : Fin 16, hexDigit m ≠ ' ' ∧ hexDigit m ≠ ',' ∧ hexDigit m ≠ ';' ∧ hexDigit m ≠ '-' := by
    decide
  exact all ⟨n, h⟩

theorem isWordChar_hexFixed (w n : Nat) : ∀ c ∈ hexFixed w n, IsWordChar c := by
  induction w generalizing n with
  | zero => simp [hexFixed]
  | succ w ih =>
    intro c hc
    rcases List.mem_append.mp hc with hc | hc
    · exact ih _ c hc
    · rw [List.mem_singleton.mp hc]
      exact isWordChar_hexDigit (Nat.mod_lt n (by decide))

theorem isWord_hexOperand (w n : Nat) : IsWord ('0' :: 'x' :: hexFixed w n) := by
  refine ⟨List.cons_ne_nil _ _, List.forall_mem_cons.mpr ⟨?_, List.forall_mem_cons.mpr ⟨?_, ?_⟩⟩⟩
  · simp [IsWordChar]
  · simp [IsWordChar]
  · exact isWordChar_hexFixed w n

theorem isWord_portOperand (v : Port) : IsWord (portOperand v) := isWord_hexOperand 4 v.toNat

theorem isWord_wordOperand (v : LpcWord) : IsWord (wordOperand v) := isWord_hexOperand 8 v.toNat

theorem isWord_names :
    IsWord nameEnclpc ∧ IsWord nameDeclpc ∧ IsWord nameEncisa ∧ IsWord nameMatch ∧ IsWord nameExpand := by
  simp [IsWord, IsWordChar, nameEnclpc, nameDeclpc, nameEncisa, nameMatch, nameExpand]

@[simp] theorem cutToPort_toNat (v : Port) : cutToPort v.toNat = v := by
  simp [cutToPort]

/-- The line of a range operation, `base` before `mask`. -/
theorem assembleLine_range {name : List Char} (hname : IsWord name) (base mask : Port) :
    assembleLine (name ++ ' ' :: joinOperands [portOperand base, portOperand mask]) =
      (rangeLine name base.toNat mask.toNat).map (fun a => [a]) := by
  rw [assembleLine_words hname (by simp [isWord_portOperand])]
  simp [parseWords, List.intersperse]

/-- Settles O51: the line falls into the words it was printed from, and each operand reads as its value. -/
theorem assemblerReadsPrintedLine : Obligations.AssemblerReadsPrintedLine := by
  intro i
  obtain ⟨hEnclpc, hDeclpc, hEncisa, hMatch, hExpand⟩ := isWord_names
  cases i with
  | enclpc base mask =>
    rw [printInstr, assembleLine_range hEnclpc]
    simp [rangeLine]
  | declpc word =>
    rw [printInstr, assembleLine_words hDeclpc (by simp [isWord_wordOperand])]
    simp [parseWords, word.isLt]
  | encisa base mask =>
    have hne : nameEncisa ≠ nameEnclpc := by decide
    rw [printInstr, assembleLine_range hEncisa]
    simp [rangeLine, hne]
  | matchPort base mask p =>
    rw [printInstr, assembleLine_words hMatch (by simp [isWord_portOperand])]
    simp [parseWords]
  | expand base mask =>
    have hne : nameExpand ≠ nameEnclpc := by decide
    have hne' : nameExpand ≠ nameEncisa := by decide
    rw [printInstr, assembleLine_range hExpand]
    simp [rangeLine, hne, hne']

end Sys2Proof.Proofs

/-! SUPPORT. Proofs of the obligations about RangeCodec: where ENCLPC, DECLPC and ENCISA put each bit (R40 to R42, R52 to R54), the enable bit (R56), that every operation answers (R57, R82). -/

namespace Sys2Proof.Proofs

open Sys2Proof Sys2Proof.Machine Sys2Proof.Laws

/-! ### Masks that keep or set a field -/

/-- A field of a field. -/
theorem extractLsb'_field {w s t len len' : Nat} (x : BitVec w) (h : t + len ≤ len') :
    (x.extractLsb' s len').extractLsb' t len = x.extractLsb' (s + t) len := by
  ext i hi
  have inField : t + i < len' := by omega
  simp [inField, Nat.add_assoc]

/-- A mask written as two fields masks the two fields of a word. -/
theorem and_append_fields {n m : Nat} (x : BitVec (n + m)) (a : BitVec n) (b : BitVec m) :
    x &&& (a ++ b) = (x.extractLsb' m n &&& a) ++ (x.extractLsb' 0 m &&& b) := by
  rw [← BitVec.and_append, BitVec.extractLsb'_append_extractLsb']

/-- Bits to set, written as two fields, are set in the two fields of a word. -/
theorem or_append_fields {n m : Nat} (x : BitVec (n + m)) (a : BitVec n) (b : BitVec m) :
    x ||| (a ++ b) = (x.extractLsb' m n ||| a) ++ (x.extractLsb' 0 m ||| b) := by
  rw [← BitVec.or_append, BitVec.extractLsb'_append_extractLsb']

/-- A mask of `m` low ones keeps the low `m` bits. -/
theorem and_lowOnes {n m : Nat} (x : BitVec (n + m)) :
    x &&& (0#n ++ BitVec.allOnes m) = 0#n ++ x.extractLsb' 0 m := by
  rw [and_append_fields, BitVec.and_zero, BitVec.and_allOnes]

/-- A mask with `m` low zeros keeps the bits above them. -/
theorem and_highOnes {n m : Nat} (x : BitVec (n + m)) :
    x &&& (BitVec.allOnes n ++ 0#m) = x.extractLsb' m n ++ 0#m := by
  rw [and_append_fields, BitVec.and_zero, BitVec.and_allOnes]

/-- Setting the low `m` bits leaves the bits above them. -/
theorem or_lowOnes {n m : Nat} (x : BitVec (n + m)) :
    x ||| (0#n ++ BitVec.allOnes m) = x.extractLsb' m n ++ BitVec.allOnes m := by
  rw [or_append_fields, BitVec.or_zero, BitVec.or_allOnes]

/-! ### The LPC word (R40, R52) -/

/-- The word's upper half is the masked mask, its lower half the masked base with the enable bit. -/
theorem encLpc_printed_halves (base mask : Port) :
    encLpc Config.printed base mask = (mask &&& 0x3F#16) ++ ((base &&& 0x3FFF#16) ||| 1#16) :=
  calc (base &&& 0x3FFF#16).setWidth 32 ||| (mask &&& 0x3F#16).setWidth 32 <<< 16 ||| 1#32
    _ = ((mask &&& 0x3F#16) ++ (base &&& 0x3FFF#16)) ||| (0#16 ++ 1#16) := by
      rw [BitVec.or_comm (BitVec.setWidth 32 _), ← BitVec.setWidth_append_eq_shiftLeft_setWidth_or,
        BitVec.setWidth_eq]
      rfl
    _ = (mask &&& 0x3F#16) ++ ((base &&& 0x3FFF#16) ||| 1#16) := by
      rw [BitVec.or_append, BitVec.or_zero]

/-- ENCLPC keeps base bits 13:1 and sets bit 0. -/
theorem base_or_enable (base : Port) :
    (base &&& 0x3FFF#16) ||| 1#16 = 0#2 ++ base.extractLsb' 1 13 ++ 1#1 :=
  calc (base &&& 0x3FFF#16) ||| 1#16
    _ = (base &&& 0x3FFF#16).extractLsb' 1 15 ++ 1#1 := or_lowOnes (n := 15) (m := 1) _
    _ = (base.extractLsb' 1 15 &&& (0#2 ++ BitVec.allOnes 13)) ++ 1#1 := by
      rw [BitVec.extractLsb'_and]
      rfl
    _ = 0#2 ++ base.extractLsb' 1 13 ++ 1#1 := by
      rw [and_lowOnes (n := 2) (m := 13), extractLsb'_field base (by decide)]

/-- The pattern of R40. -/
theorem encLpc_printed (base mask : Port) :
    encLpc Config.printed base mask =
      0#10 ++ mask.extractLsb' 0 6 ++ 0#2 ++ base.extractLsb' 1 13 ++ 1#1 := by
  have hmask : mask &&& 0x3F#16 = 0#10 ++ mask.extractLsb' 0 6 := and_lowOnes (n := 10) (m := 6) mask
  rw [encLpc_printed_halves, hmask, base_or_enable, BitVec.append_assoc', BitVec.append_assoc']
  rfl

theorem encLpc_printed_enable (base mask : Port) :
    (encLpc Config.printed base mask).getLsbD 0 = true := by
  rw [encLpc_printed, BitVec.getLsbD_append]
  rfl

/-- Settles O9: ENCLPC places the WORD of R52's formula, which has the pattern of R40. -/
theorem enclpcPlacesWordInPattern : Obligations.EnclpcPlacesWordInPattern := by
  intro base mask s
  rw [← encLpc_printed]
  rfl

/-! ### The range of an LPC word (R41, R53) -/

theorem decLpcBase_printed (word : LpcWord) :
    decLpcBase Config.printed word = word.extractLsb' 2 14 ++ 0#2 :=
  calc word.setWidth 16 &&& 0xFFFC#16
    _ = (word.setWidth 16).extractLsb' 2 14 ++ 0#2 := and_highOnes (n := 14) (m := 2) _
    _ = word.extractLsb' 2 14 ++ 0#2 := by
      rw [BitVec.extractLsb'_setWidth_of_le (by decide)]

theorem decLpcMask_printed (word : LpcWord) :
    decLpcMask Config.printed word = 0#8 ++ word.extractLsb' 18 6 ++ 0#2 :=
  calc ((word &&& 0x00FC0000#32) >>> 16).setWidth 16
    _ = word.extractLsb' 16 16 &&& (0#8 ++ BitVec.allOnes 6 ++ 0#2) := by
      rw [BitVec.setWidth_ushiftRight_eq_extractLsb, BitVec.extractLsb'_and]
      rfl
    _ = 0#8 ++ word.extractLsb' 18 6 ++ 0#2 := by
      rw [and_append_fields (n := 14) (m := 2), BitVec.and_zero, and_lowOnes (n := 8) (m := 6),
        extractLsb'_field word (by decide), extractLsb'_field word (by decide)]

/-- Settles O10: DECLPC places the RANGE of R53's formulas, which take the word's bits. -/
theorem declpcPlacesRangeOfWordBits : Obligations.DeclpcPlacesRangeOfWordBits := by
  intro word s
  rw [← decLpcMask_printed, ← decLpcBase_printed]
  rfl

/-! ### The ISA triple (R42, R54) -/

theorem isaLow_eq (base : Port) : isaLow base = base.extractLsb' 0 8 :=
  BitVec.setWidth_eq_extractLsb' (by decide)

theorem isaHigh_eq (base : Port) : isaHigh base = base.extractLsb' 8 8 :=
  BitVec.setWidth_ushiftRight_eq_extractLsb

theorem isaMask_printed (mask : Port) :
    isaMask Config.printed mask = mask.extractLsb' 2 6 ++ 3#2 :=
  calc mask.setWidth 8 ||| 3#8
    _ = (mask.setWidth 8).extractLsb' 2 6 ++ 3#2 := or_lowOnes (n := 6) (m := 2) _
    _ = mask.extractLsb' 2 6 ++ 3#2 := by
      rw [BitVec.extractLsb'_setWidth_of_le (by decide)]

/-- Settles O11: ENCISA places the TRIPLE of R54's three bytes. -/
theorem encisaPlacesThreeBytes : Obligations.EncisaPlacesThreeBytes := by
  intro base mask s
  rw [← isaLow_eq, ← isaHigh_eq, ← isaMask_printed]
  rfl

/-! ### Every WORD placed is enabled (R56) -/

/-- Settles O12: ENCLPC alone places a WORD, and its word has the enable bit. -/
theorem everyEncodedWordIsEnabled : Obligations.EveryEncodedWordIsEnabled := by
  refine ⟨encLpc_printed_enable, fun i s t h w hw => ?_⟩
  cases i with
  | enclpc base mask =>
    obtain rfl := Host.Outcome.next.inj h
    obtain hs | rfl : Record.word w ∈ s.resp ∨ w = encLpc Config.printed base mask := by simpa using hw
    · exact .inl hs
    · exact .inr (encLpc_printed_enable base mask)
  | declpc _ | encisa _ _ | matchPort _ _ _ =>
    obtain rfl := Host.Outcome.next.inj h
    exact .inl (by simpa using hw)
  | expand base mask =>
    obtain rfl := Host.Outcome.next.inj h
    exact .inl hw

/-! ### Every operation answers (R57, R82) -/

/-- Settles O32: a record placed or a scan begun, and nothing else, is what an operation answers. -/
theorem everyOperationAnswers : Obligations.EveryOperationAnswers := by
  intro i s
  rcases exec_cases i s with ⟨r, -, e⟩ | ⟨base, mask, -, e⟩
  · exact ⟨respond r s, e⟩
  · exact ⟨beginScan base mask s, e⟩

end Sys2Proof.Proofs

/-! SUPPORT. Proofs of the obligations about PortSetExpander: the predicate (R62, R63), the run list (R65), the scan that lists it (R64, R66, R68), EXPAND as a function of its range (R73), its records on the port (R67), and the text of an address (R72). -/

namespace Sys2Proof.Proofs

open Sys2Proof Sys2Proof.Machine Sys2Proof.Laws

/-! ### The effective mask and MATCH (R62, R63) -/

/-- Settles O16: `GRAN` is two low ones, and setting them leaves the bits above. -/
theorem effectiveMaskForcesLowBits : Obligations.EffectiveMaskForcesLowBits :=
  fun mask => or_lowOnes (n := 14) (m := 2) mask

/-- Setting the bits of `e` in two words makes them equal iff they agree in every bit `e` leaves clear. -/
theorem or_right_inj_iff_getLsbD {w : Nat} (p b e : BitVec w) :
    p ||| e = b ||| e ↔ ∀ i, i < w → e.getLsbD i = false → p.getLsbD i = b.getLsbD i := by
  constructor
  · intro h i _ he
    have hi := congrArg (·.getLsbD i) h
    simpa [he] using hi
  · intro h
    refine BitVec.eq_of_getLsbD_eq fun i hi => ?_
    cases he : e.getLsbD i with
    | true => simp [he]
    | false => simp [he, h i hi he]

/-- The bits the effective mask leaves clear are those from 2 up that the mask leaves clear. -/
theorem getLsbD_or_gran_eq_false_iff (mask : Port) (i : Nat) :
    (mask ||| 3#16).getLsbD i = false ↔ 2 ≤ i ∧ mask.getLsbD i = false := by
  have low : (3#16).getLsbD i = decide (i < 2) := by
    have fields : 3#16 = 0#14 ++ BitVec.allOnes 2 := rfl
    rw [fields, BitVec.getLsbD_append, BitVec.getLsbD_allOnes, BitVec.getLsbD_zero]
    by_cases hi : i < 2 <;> simp [hi]
  rw [BitVec.getLsbD_or, low, Bool.or_eq_false_iff, decide_eq_false_iff_not, not_lt, and_comm]

/-- Settles O17: the HIT is the predicate, a compare of the two words with the effective mask set, read bit by bit. -/
theorem matchPlacesHitOfThePredicate : Obligations.MatchPlacesHitOfThePredicate := by
  intro base mask p s
  have compare : portMatches Config.printed base mask p = true ↔
      p ||| (mask ||| 3#16) = base ||| (mask ||| 3#16) := beq_iff_eq
  refine ⟨portMatches Config.printed base mask p, rfl, compare, ?_⟩
  rw [compare, or_right_inj_iff_getLsbD]
  simp only [getLsbD_or_gran_eq_false_iff]
  exact ⟨fun h i hi hlt hm => h i hlt ⟨hi, hm⟩, fun h i hlt him => h i him.1 hlt him.2⟩

/-! ### The three properties of R65 fix the run list -/

theorem isRunList_nil_iff (f : Port → Bool) : IsRunList f [] ↔ ∀ p, f p = false := by
  constructor
  · intro h p
    simpa using h.exhaustive p
  · intro hf
    exact ⟨fun p => by simp [hf], by simp, .nil⟩

/-- A list of runs for a predicate that holds nowhere is empty: the start of a run is a match. -/
theorem eq_nil_of_isRunList {f : Port → Bool} {rs : List Run} (h : IsRunList f rs)
    (hf : ∀ p, f p = false) : rs = [] := by
  refine List.eq_nil_iff_forall_not_mem.mpr fun r hr => ?_
  have hit := (h.exhaustive r.startPort).mp ⟨r, hr, BitVec.le_refl _, h.ordered r hr⟩
  simp [hf] at hit

section RunListCons

variable {f : Port → Bool} {r : Run} {rs : List Run}

/-- A match lies in the first run, or above the gap that follows it. -/
theorem match_iff_of_isRunList_cons (h : IsRunList f (r :: rs)) (p : Port) :
    f p = true ↔ (r.startPort ≤ p ∧ p ≤ r.endPort) ∨ ∃ q ∈ rs, q.startPort ≤ p ∧ p ≤ q.endPort := by
  rw [← h.exhaustive]
  simp

theorem gap_of_isRunList_cons (h : IsRunList f (r :: rs)) {p : Port}
    (hp : ∃ q ∈ rs, q.startPort ≤ p ∧ p ≤ q.endPort) : r.endPort.toNat + 1 < p.toNat := by
  obtain ⟨q, hq, hqp, -⟩ := hp
  exact lt_of_lt_of_le ((List.pairwise_cons.mp h.separated).1 q hq) (BitVec.le_def.mp hqp)

/-- Every match lies at or above the start of the first run. -/
theorem startPort_le_of_match (h : IsRunList f (r :: rs)) {p : Port} (hp : f p = true) :
    r.startPort.toNat ≤ p.toNat := by
  have hord := BitVec.le_def.mp (h.ordered r List.mem_cons_self)
  rcases (match_iff_of_isRunList_cons h p).mp hp with ⟨hrp, -⟩ | hlater
  · exact BitVec.le_def.mp hrp
  · have := gap_of_isRunList_cons h hlater
    omega

/-- The runs after the first list the matches above the first. -/
theorem isRunList_tail (h : IsRunList f (r :: rs)) :
    IsRunList (fun p => f p && decide (r.endPort.toNat < p.toNat)) rs where
  exhaustive p := by
    rw [Bool.and_eq_true, decide_eq_true_eq, match_iff_of_isRunList_cons h]
    constructor
    · intro hlater
      exact ⟨.inr hlater, by have := gap_of_isRunList_cons h hlater; omega⟩
    · rintro ⟨⟨-, hle⟩ | hlater, hlt⟩
      · exact absurd (BitVec.le_def.mp hle) (by omega)
      · exact hlater
  ordered q hq := h.ordered q (List.mem_cons_of_mem r hq)
  separated := (List.pairwise_cons.mp h.separated).2

variable {q : Run} {qs : List Run}

theorem startPort_head_le (h : IsRunList f (r :: rs)) (h' : IsRunList f (q :: qs)) :
    r.startPort.toNat ≤ q.startPort.toNat :=
  startPort_le_of_match h ((match_iff_of_isRunList_cons h' _).mpr
    (.inl ⟨BitVec.le_refl _, h'.ordered q List.mem_cons_self⟩))

/-- The first run stops where the first run of any list does: the address after it is no match. -/
theorem endPort_head_le (h : IsRunList f (r :: rs)) (h' : IsRunList f (q :: qs)) :
    q.endPort.toNat ≤ r.endPort.toNat := by
  by_contra hlt
  have hq := q.endPort.isLt
  have hstart := startPort_head_le h' h
  have hord := BitVec.le_def.mp (h.ordered r List.mem_cons_self)
  have hnext : (BitVec.ofNat 16 (r.endPort.toNat + 1)).toNat = r.endPort.toNat + 1 := by
    rw [BitVec.toNat_ofNat]
    omega
  have hit : f (BitVec.ofNat 16 (r.endPort.toNat + 1)) = true :=
    (match_iff_of_isRunList_cons h' _).mpr
      (.inl ⟨BitVec.le_def.mpr (by omega), BitVec.le_def.mpr (by omega)⟩)
  rcases (match_iff_of_isRunList_cons h _).mp hit with ⟨-, hle⟩ | hlater
  · have := BitVec.le_def.mp hle
    omega
  · have := gap_of_isRunList_cons h hlater
    omega

theorem head_eq_of_isRunList_cons (h : IsRunList f (r :: rs)) (h' : IsRunList f (q :: qs)) : r = q := by
  have hstart := BitVec.eq_of_toNat_eq (le_antisymm (startPort_head_le h h') (startPort_head_le h' h))
  have hend := BitVec.eq_of_toNat_eq (le_antisymm (endPort_head_le h' h) (endPort_head_le h h'))
  exact congrArg₂ Run.mk hstart hend

end RunListCons

/-- Settles O25, by induction on the list: the first runs are equal, and the rest list what lies above. -/
theorem runListIsUnique : Obligations.RunListIsUnique := by
  intro f rs qs hrs hqs
  induction rs generalizing f qs with
  | nil => exact (eq_nil_of_isRunList hqs ((isRunList_nil_iff f).mp hrs)).symm
  | cons r rs ih =>
    cases qs with
    | nil => exact eq_nil_of_isRunList hrs ((isRunList_nil_iff f).mp hqs)
    | cons q qs =>
      obtain rfl := head_eq_of_isRunList_cons hrs hqs
      rw [ih _ _ (isRunList_tail hrs) (isRunList_tail hqs)]

/-! ### The run list, one address at a time -/

/-- The matches of `f` below `n`: those a scan has met when `P` is `n`. -/
def matchesBelow (f : Port → Bool) (n : Nat) (p : Port) : Bool := f p && decide (p.toNat < n)

/-- The runs with one more match `p`, above them all: it extends the last run or is a run of its own. -/
def growRuns (rs : List Run) (p : Port) : List Run :=
  match rs.getLast? with
  | none => [⟨p, p⟩]
  | some r =>
    if p.toNat = r.endPort.toNat + 1 then rs.dropLast ++ [⟨r.startPort, p⟩] else rs ++ [⟨p, p⟩]

/-- The runs of the matches of `f` below `n`. -/
def runsBelow (f : Port → Bool) : Nat → List Run
  | 0 => []
  | n + 1 => if f (BitVec.ofNat 16 n) then growRuns (runsBelow f n) (BitVec.ofNat 16 n) else runsBelow f n

theorem growRuns_nil (p : Port) : growRuns [] p = [⟨p, p⟩] := rfl

theorem growRuns_extend {rs : List Run} {r : Run} {p : Port} (h : p.toNat = r.endPort.toNat + 1) :
    growRuns (rs ++ [r]) p = rs ++ [⟨r.startPort, p⟩] := by
  simp [growRuns, h]

theorem growRuns_open {rs : List Run} {r : Run} {p : Port} (h : p.toNat ≠ r.endPort.toNat + 1) :
    growRuns (rs ++ [r]) p = rs ++ [r] ++ [⟨p, p⟩] := by
  simp [growRuns, h]

theorem matchesBelow_zero (f : Port → Bool) (p : Port) : matchesBelow f 0 p = false := by
  simp [matchesBelow]

theorem matchesBelow_all (f : Port → Bool) : matchesBelow f 65536 = f := by
  funext p
  simp [matchesBelow, p.isLt]

theorem matchesBelow_succ_of_miss {f : Port → Bool} {n : Nat} {p : Port} (hp : p.toNat = n)
    (hit : f p = false) : matchesBelow f (n + 1) = matchesBelow f n := by
  funext q
  by_cases hq : q = p
  · simp [matchesBelow, hq, hit]
  · have hne : q.toNat ≠ n := fun e => hq (BitVec.eq_of_toNat_eq (e.trans hp.symm))
    have hlt : q.toNat < n + 1 ↔ q.toNat < n := by omega
    simp [matchesBelow, hlt]

theorem matchesBelow_succ_of_hit {f : Port → Bool} {n : Nat} {p : Port} (hp : p.toNat = n)
    (hit : f p = true) (q : Port) :
    matchesBelow f (n + 1) q = true ↔ matchesBelow f n q = true ∨ q = p := by
  by_cases hq : q = p
  · simp [matchesBelow, hq, hit, hp]
  · have hne : q.toNat ≠ n := fun e => hq (BitVec.eq_of_toNat_eq (e.trans hp.symm))
    have hlt : q.toNat < n + 1 ↔ q.toNat < n := by omega
    simp [matchesBelow, hlt, hq]

/-- A run list with one more match, not adjacent to any run, has it as a run of its own. -/
theorem isRunList_concat {f g : Port → Bool} {rs : List Run} {p : Port} (h : IsRunList f rs)
    (hsep : ∀ r ∈ rs, r.endPort.toNat + 1 < p.toNat) (hg : ∀ q, g q = true ↔ f q = true ∨ q = p) :
    IsRunList g (rs ++ [⟨p, p⟩]) where
  exhaustive q := by
    have single : p ≤ q ∧ q ≤ p ↔ q = p :=
      ⟨fun hq => BitVec.le_antisymm hq.2 hq.1, fun e => e ▸ ⟨BitVec.le_refl _, BitVec.le_refl _⟩⟩
    rw [hg, ← h.exhaustive]
    simp [or_and_right, exists_or, single]
  ordered r hr := by
    rcases List.mem_append.mp hr with hr | hr
    · exact h.ordered r hr
    · obtain rfl := List.mem_singleton.mp hr
      exact BitVec.le_refl _
  separated := List.pairwise_append.mpr ⟨h.separated, List.pairwise_singleton _ _, by simpa using hsep⟩

/-- A run list with one more match, the address after its last run, has that run extended. -/
theorem isRunList_extend {f g : Port → Bool} {rs : List Run} {r : Run} {p : Port}
    (h : IsRunList f (rs ++ [r])) (hp : p.toNat = r.endPort.toNat + 1)
    (hg : ∀ q, g q = true ↔ f q = true ∨ q = p) : IsRunList g (rs ++ [⟨r.startPort, p⟩]) := by
  have hord := BitVec.le_def.mp (h.ordered r (by simp))
  obtain ⟨hrs, -, hlast⟩ := List.pairwise_append.mp h.separated
  constructor
  case exhaustive =>
    intro q
    have grown : r.startPort ≤ q ∧ q ≤ p ↔ (r.startPort ≤ q ∧ q ≤ r.endPort) ∨ q = p := by
      simp only [BitVec.le_def, ← BitVec.toNat_inj]
      omega
    rw [hg, ← h.exhaustive]
    simp [or_and_right, exists_or, grown, or_assoc]
  case ordered =>
    intro q hq
    rcases List.mem_append.mp hq with hq | hq
    · exact h.ordered q (List.mem_append_left _ hq)
    · obtain rfl := List.mem_singleton.mp hq
      exact BitVec.le_def.mpr (by simp only; omega)
  case separated =>
    exact List.pairwise_append.mpr ⟨hrs, List.pairwise_singleton _ _, by simpa using hlast⟩

theorem endPort_lt_of_isRunList {f : Port → Bool} {n : Nat} {rs : List Run}
    (h : IsRunList (matchesBelow f n) rs) : ∀ r ∈ rs, r.endPort.toNat < n := by
  intro r hr
  have hit := (h.exhaustive r.endPort).mp ⟨r, hr, h.ordered r hr, BitVec.le_refl _⟩
  simp only [matchesBelow, Bool.and_eq_true, decide_eq_true_eq] at hit
  exact hit.2

/-- Meeting the match `n` grows the run list of the matches below `n` into that of those below `n + 1`. -/
theorem isRunList_growRuns {f : Port → Bool} {n : Nat} {rs : List Run} {p : Port}
    (h : IsRunList (matchesBelow f n) rs) (hp : p.toNat = n) (hit : f p = true) :
    IsRunList (matchesBelow f (n + 1)) (growRuns rs p) := by
  have more := matchesBelow_succ_of_hit hp hit
  rcases List.eq_nil_or_concat' rs with rfl | ⟨init, r, rfl⟩
  · exact isRunList_concat h (by simp) more
  · by_cases he : p.toNat = r.endPort.toNat + 1
    · rw [growRuns_extend he]
      exact isRunList_extend h he more
    · rw [growRuns_open he]
      refine isRunList_concat h (fun q hq => ?_) more
      have hr := endPort_lt_of_isRunList h r (by simp)
      rcases List.mem_append.mp hq with hq | hq
      · have hsep := (List.pairwise_append.mp h.separated).2.2 q hq r (by simp)
        have hord := BitVec.le_def.mp (h.ordered r (by simp))
        omega
      · obtain rfl := List.mem_singleton.mp hq
        omega

theorem isRunList_runsBelow (f : Port → Bool) (n : Nat) (hn : n ≤ 65536) :
    IsRunList (matchesBelow f n) (runsBelow f n) := by
  induction n with
  | zero => exact (isRunList_nil_iff _).mpr (matchesBelow_zero f)
  | succ n ih =>
    have hp : (BitVec.ofNat 16 n).toNat = n := by
      rw [BitVec.toNat_ofNat]
      omega
    cases hit : f (BitVec.ofNat 16 n) with
    | true =>
      simp only [runsBelow, hit, if_true]
      exact isRunList_growRuns (ih (by omega)) hp hit
    | false =>
      simp only [runsBelow, hit, matchesBelow_succ_of_miss hp hit]
      exact ih (by omega)

/-- Below the end of the port space lie all matches. -/
theorem isRunList_runsBelow_all (f : Port → Bool) : IsRunList f (runsBelow f 65536) := by
  have h := isRunList_runsBelow f 65536 le_rfl
  rwa [matchesBelow_all] at h

/-! ### The scan lists the runs (R66) -/

/-- The block that began a scan in `s` when `P` is `n` and the runs met are `rs`: the last is open, those before it are on the port. -/
def afterScan (s : State) (n : Nat) (rs : List Run) : State :=
  match rs.getLast? with
  | none => { s with scanP := BitVec.ofNat 17 n, runOpen := false }
  | some r => { s with
      scanP := BitVec.ofNat 17 n
      runOpen := true
      runStart := r.startPort
      runLast := r.endPort
      resp := s.resp ++ rs.dropLast.map .run }

theorem afterScan_nil (s : State) (n : Nat) :
    afterScan s n [] = { s with scanP := BitVec.ofNat 17 n, runOpen := false } := rfl

theorem afterScan_concat (s : State) (n : Nat) (rs : List Run) (r : Run) :
    afterScan s n (rs ++ [r]) = { s with
      scanP := BitVec.ofNat 17 n
      runOpen := true
      runStart := r.startPort
      runLast := r.endPort
      resp := s.resp ++ rs.map .run } := by
  simp [afterScan]

theorem afterScan_frame (s : State) (n : Nat) (rs : List Run) :
    afterScan s n rs = { s with
      scanP := BitVec.ofNat 17 n
      runOpen := (afterScan s n rs).runOpen
      runStart := (afterScan s n rs).runStart
      runLast := (afterScan s n rs).runLast
      resp := (afterScan s n rs).resp } := by
  rcases List.eq_nil_or_concat' rs with rfl | ⟨init, r, rfl⟩
  · rw [afterScan_nil]
  · rw [afterScan_concat]

@[simp] theorem afterScan_scanP (s : State) (n : Nat) (rs : List Run) :
    (afterScan s n rs).scanP = BitVec.ofNat 17 n := by rw [afterScan_frame]

@[simp] theorem afterScan_busy (s : State) (n : Nat) (rs : List Run) :
    (afterScan s n rs).busy = s.busy := by rw [afterScan_frame]

theorem afterScan_tested (s : State) (n : Nat) (rs : List Run) :
    (afterScan s n rs).scanP.setWidth 16 = BitVec.ofNat 16 n := by
  rw [afterScan_scanP, BitVec.setWidth_ofNat_of_le (by decide)]

theorem afterScan_next (s : State) (n : Nat) (rs : List Run) :
    { afterScan s n rs with scanP := (afterScan s n rs).scanP + 1#17 } = afterScan s (n + 1) rs := by
  rcases List.eq_nil_or_concat' rs with rfl | ⟨init, r, rfl⟩
  · simp only [afterScan_nil, BitVec.ofNat_add]
  · simp only [afterScan_concat, BitVec.ofNat_add]

/-- A scan step that meets no match leaves the runs as they are. -/
theorem scanStep_afterScan_miss (s : State) (n : Nat) (rs : List Run) :
    scanStep false (afterScan s n rs) = afterScan s (n + 1) rs := by
  rw [scanStep_miss, afterScan_next]

/-- Emitting the open run places the last of the runs on the port. -/
theorem emitOpenRun_afterScan_resp (s : State) (n : Nat) (rs : List Run) :
    (emitOpenRun (afterScan s n rs)).resp = s.resp ++ rs.map .run := by
  rcases List.eq_nil_or_concat' rs with rfl | ⟨init, r, rfl⟩
  · simp [emitOpenRun, afterScan_nil]
  · simp [emitOpenRun, afterScan_concat]

/-- The open run is extended exactly when `p` is the address after the last run. -/
theorem extendsRun_afterScan_concat (s : State) (n : Nat) (rs : List Run) (r : Run) (p : Port) :
    extendsRun (afterScan s n (rs ++ [r])) p = decide (p.toNat = r.endPort.toNat + 1) := by
  rw [Bool.eq_iff_iff, extendsRun_iff, decide_eq_true_eq, afterScan_concat]
  simp

/-- A scan step that meets a match grows the runs by it. -/
theorem scanStep_afterScan_hit (s : State) (n : Nat) (rs : List Run) :
    scanStep true (afterScan s n rs) = afterScan s (n + 1) (growRuns rs (BitVec.ofNat 16 n)) := by
  have hp := afterScan_tested s n rs
  rcases List.eq_nil_or_concat' rs with rfl | ⟨init, r, rfl⟩
  · have he : extendsRun (afterScan s n []) (BitVec.ofNat 16 n) = false := rfl
    rw [scanStep_open (hp ▸ he), hp, emitOpenRun_closed rfl, growRuns_nil]
    simp [afterScan, openRunAt, BitVec.ofNat_add]
  · have he := extendsRun_afterScan_concat s n init r (BitVec.ofNat 16 n)
    by_cases hnext : (BitVec.ofNat 16 n).toNat = r.endPort.toNat + 1
    · rw [scanStep_extend (hp ▸ he.trans (decide_eq_true hnext)), hp, growRuns_extend hnext]
      simp [afterScan_concat, BitVec.ofNat_add]
    · rw [scanStep_open (hp ▸ he.trans (decide_eq_false hnext)), hp, growRuns_open hnext]
      rw [afterScan_concat s (n + 1)]
      simp [afterScan_concat, emitOpenRun, openRunAt, respond, BitVec.ofNat_add]

/-- While `P` has not reached the end, a move of the block meets address `n`. -/
theorem blockMoveBy_afterScan (f : Port → Bool) {s : State} (hb : s.busy = true) {n : Nat} (hn : n < 65536)
    (rs : List Run) :
    blockMoveBy f (afterScan s n rs) = afterScan s (n + 1)
      (if f (BitVec.ofNat 16 n) then growRuns rs (BitVec.ofNat 16 n) else rs) := by
  have hP : (afterScan s n rs).scanP ≠ 0x10000#17 := by
    rw [afterScan_scanP, ne_eq, ← BitVec.toNat_inj, BitVec.toNat_ofNat, BitVec.toNat_ofNat]
    omega
  rcases blockMoveBy_cases f (afterScan s n rs) with ⟨hb', -⟩ | ⟨-, hP', -⟩ | ⟨-, -, e⟩
  · simp [hb] at hb'
  · exact absurd hP' hP
  · rw [e, afterScan_tested]
    cases f (BitVec.ofNat 16 n) with
    | true => exact scanStep_afterScan_hit s n rs
    | false => exact scanStep_afterScan_miss s n rs

/-- At the end of the port space the move of the block is the finish. -/
theorem blockMoveBy_afterScan_end (f : Port → Bool) {s : State} (hb : s.busy = true) (rs : List Run) :
    blockMoveBy f (afterScan s 65536 rs) = finishScan (afterScan s 65536 rs) := by
  rcases blockMoveBy_cases f (afterScan s 65536 rs) with ⟨hb', -⟩ | ⟨-, -, e⟩ | ⟨-, hP, -⟩
  · simp [hb] at hb'
  · exact e
  · exact absurd (afterScan_scanP s 65536 rs) hP

/-- `n` moves into a scan the runs met are those of the matches below `n`. -/
theorem blockMovesBy_beginScan (f : Port → Bool) (base mask : Port) (s : State) (n : Nat) (hn : n ≤ 65536) :
    blockMovesBy f n (beginScan base mask s) = afterScan (beginScan base mask s) n (runsBelow f n) := by
  induction n with
  | zero => rfl
  | succ n ih =>
    rw [blockMovesBy_succ, ih (by omega), blockMoveBy_afterScan f rfl (by omega)]
    rfl

/-- The whole scan: 65 536 scan steps and the finish. -/
theorem blockMovesBy_beginScan_end (f : Port → Bool) (base mask : Port) (s : State) :
    blockMovesBy f 65537 (beginScan base mask s) =
      finishScan (afterScan (beginScan base mask s) 65536 (runsBelow f 65536)) := by
  rw [blockMovesBy_succ, blockMovesBy_beginScan f base mask s 65536 le_rfl,
    blockMoveBy_afterScan_end f rfl]

theorem finishScan_afterScan_resp (s : State) (n : Nat) (rs : List Run) :
    (finishScan (afterScan s n rs)).resp = s.resp ++ rs.map .run ++ [.done] := by
  rw [← emitOpenRun_afterScan_resp s n rs]
  rfl

theorem blockMovesBy_beginScan_resp (f : Port → Bool) (base mask : Port) (s : State) :
    (blockMovesBy f 65537 (beginScan base mask s)).resp =
      s.resp ++ (runsBelow f 65536).map .run ++ [.done] := by
  rw [blockMovesBy_beginScan_end, finishScan_afterScan_resp]
  rfl

/-- Settles O23: the runs met are the run list, and the finish sends the last of them and DONE. -/
theorem scanListsRunsOfAnyPredicate : Obligations.ScanListsRunsOfAnyPredicate := fun f base mask s =>
  ⟨runsBelow f 65536, isRunList_runsBelow_all f, blockMovesBy_beginScan_resp f base mask s⟩

/-- The top address alone is a run list of one degenerate run (R68). -/
theorem isRunList_topAddress : IsRunList (fun p => p == 0xFFFF#16) [⟨0xFFFF#16, 0xFFFF#16⟩] :=
  isRunList_concat ((isRunList_nil_iff (fun _ => false)).mpr fun _ => rfl) (by simp) (by simp)

/-- Settles O24: the scan lists the run list of the one address, which is unique. -/
theorem topAddressAloneIsEmitted : Obligations.TopAddressAloneIsEmitted := by
  intro base mask s
  obtain ⟨rs, hrs, hresp⟩ := scanListsRunsOfAnyPredicate (fun p => p == 0xFFFF#16) base mask s
  obtain rfl := runListIsUnique _ _ _ hrs isRunList_topAddress
  rw [hresp]
  simp

/-! ### EXPAND (R64, R66) -/

/-- The block's moves after the acceptance of an EXPAND are those of its range's predicate. -/
theorem blockMoves_beginScan_eq (n : Nat) (base mask : Port) (s : State) :
    blockMoves n (beginScan base mask s) =
      blockMovesBy (portMatches Config.printed base mask) n (beginScan base mask s) :=
  blockMoves_eq n (beginScan base mask s)

/-- The finish of a scan that has met runs: the last is placed and stays in the run registers. -/
theorem finishScan_afterScan_concat (s : State) (n : Nat) (rs : List Run) (r : Run) :
    finishScan (afterScan s n (rs ++ [r])) = { s with
      scanP := BitVec.ofNat 17 n
      runOpen := false
      runStart := r.startPort
      runLast := r.endPort
      busy := false
      resp := s.resp ++ (rs ++ [r]).map .run ++ [.done] } := by
  rw [finishScan_frame, afterScan_concat]
  simp

/-- A range has a run: its base is a match. -/
theorem runsBelow_portMatches_ne_nil (k : Config) (base mask : Port) :
    runsBelow (portMatches k base mask) 65536 ≠ [] := by
  intro hnil
  have hbase : portMatches k base mask base = true := beq_self_eq_true _
  obtain ⟨r, hr, -⟩ := ((isRunList_runsBelow_all (portMatches k base mask)).exhaustive base).mpr hbase
  simp [hnil] at hr

/-- Settles O20: the moves of the block are the scan of the range's predicate, whose runs, at least one, the finish completes. -/
theorem expandSendsRunListThenDone : Obligations.ExpandSendsRunListThenDone := by
  intro base mask s
  have hlist := isRunList_runsBelow_all (portMatches Config.printed base mask)
  have hend := blockMovesBy_beginScan_end (portMatches Config.printed base mask) base mask s
  obtain hnil | ⟨rs, r, hruns⟩ :=
    List.eq_nil_or_concat' (runsBelow (portMatches Config.printed base mask) 65536)
  · exact absurd hnil (runsBelow_portMatches_ne_nil Config.printed base mask)
  · rw [hruns] at hlist hend
    refine ⟨beginScan base mask s, rs, r, rfl, rfl, hlist, ?_⟩
    rw [blockMoves_beginScan_eq, hend, finishScan_afterScan_concat]
    rfl

/-! ### EXPAND is a function of its range (R73) -/

/-- The records of an EXPAND are those of the run list of its range. -/
theorem expand_resp (base mask : Port) (s : State) :
    (blockMoves 65537 (beginScan base mask s)).resp = s.resp ++
      ((runsBelow (portMatches Config.printed base mask) 65536).map .run ++ [.done]) := by
  rw [blockMoves_beginScan_eq, blockMovesBy_beginScan_resp, List.append_assoc]

theorem portMatches_clearedBase (k : Config) (base mask : Port) :
    portMatches k (base &&& ~~~(effMask k mask)) mask = portMatches k base mask := by
  funext p
  rw [portMatches, portMatches, and_not_or_self]

theorem portMatches_filledBase (k : Config) (base mask : Port) :
    portMatches k (base ||| effMask k mask) mask = portMatches k base mask := by
  funext p
  rw [portMatches, portMatches, BitVec.or_assoc, BitVec.or_self]

theorem portMatches_effMask (k : Config) (base mask : Port) :
    portMatches k base (effMask k mask) = portMatches k base mask := by
  have idem : effMask k (effMask k mask) = effMask k mask := by
    rw [effMask, effMask, BitVec.or_assoc, BitVec.or_self]
  funext p
  rw [portMatches, portMatches, idem]

/-- Settles O29: the four pairs of operands denote one range, so they have one predicate and one run list. -/
theorem expandIsAPureFunctionOfTheRange : Obligations.ExpandIsAPureFunctionOfTheRange := by
  intro base mask
  have cleared := portMatches_clearedBase Config.printed base mask
  have filled := portMatches_filledBase Config.printed base mask
  have masked := portMatches_effMask Config.printed base mask
  have hem : effMask Config.printed mask = mask ||| 3#16 := rfl
  rw [hem] at cleared filled masked
  refine ⟨_, fun s => ⟨expand_resp base mask s, ?_, ?_, ?_⟩⟩
  · rw [expand_resp, cleared]
  · rw [expand_resp, filled]
  · rw [expand_resp, masked]

/-! ### The records of an EXPAND in flight (R67) -/

/-- A record an EXPAND sends (R44). -/
def IsExpandRecord (x : Record) : Prop := x = .done ∨ ∃ r, x = .run r

/-- The block's own moves place RUN and DONE alone. -/
theorem blockMove_adds_expandRecords (s : State) :
    ∃ xs, (blockMove s).resp = s.resp ++ xs ∧ ∀ x ∈ xs, IsExpandRecord x := by
  rcases blockMoveBy_cases (portMatches Config.printed s.latchB s.latchM) s with
    ⟨-, e⟩ | ⟨-, -, e⟩ | ⟨-, -, e⟩
  · exact ⟨[], by rw [blockMove, e, List.append_nil], by simp⟩
  · refine ⟨_, by rw [blockMove, e, finishScan_frame], ?_⟩
    cases s.runOpen <;> simp [IsExpandRecord]
  · rw [blockMove, e]
    rcases scanStep_resp (portMatches Config.printed s.latchB s.latchM (s.scanP.setWidth 16)) s with
      hresp | ⟨-, hresp⟩
    · exact ⟨[], by rw [hresp, List.append_nil], by simp⟩
    · exact ⟨_, hresp, by simp [IsExpandRecord]⟩

/-- Settles O40: the step of a busy block is the reset, or its own move, and the host takes no record in it. -/
theorem onlyRunsAndDoneWhileBusy : Obligations.OnlyRunsAndDoneWhileBusy := by
  intro prog s t hb h
  by_cases hr : s.resetIn = some 0
  · exact .inr hr
  · obtain rfl := Host.Outcome.next.inj ((advance_of_busy hr hb prog).symm.trans h)
    obtain ⟨host, -⟩ := sameOutside_blockMove (tickReset s)
    obtain ⟨xs, hresp, hxs⟩ := blockMove_adds_expandRecords (tickReset s)
    refine .inl ⟨xs, ?_, hxs⟩
    rw [host.received, hresp, List.append_assoc]
    rfl

/-! ### The text of an address (R72) -/

theorem hexDigit_eq_zero_iff {n : Nat} (h : n < 16) : hexDigit n = '0' ↔ n = 0 := by
  have all : ∀ m : Fin 16, hexDigit m = '0' ↔ m.val = 0 := by decide
  exact all ⟨n, h⟩

theorem hexDigits_of_lt {n : Nat} (h : n < 16) (fuel : Nat) : hexDigits (fuel + 1) n = [hexDigit n] := by
  simp [hexDigits, h]

theorem hexDigits_of_ge {n : Nat} (h : 16 ≤ n) (fuel : Nat) :
    hexDigits (fuel + 1) n = hexDigits fuel (n / 16) ++ [hexDigit (n % 16)] := by
  simp [hexDigits, Nat.not_lt.mpr h]

theorem hexNumber_hexDigits (fuel n : Nat) (h : n < 16 ^ fuel) : hexNumber 0 (hexDigits fuel n) = some n := by
  induction fuel generalizing n with
  | zero =>
    obtain rfl : n = 0 := by simpa using h
    rfl
  | succ fuel ih =>
    by_cases hn : n < 16
    · simp [hexDigits_of_lt hn, hexNumber, hexValue_hexDigit hn]
    · have upper := ih (n / 16) (by rw [Nat.pow_succ] at h; omega)
      have value : n / 16 * 16 + n % 16 = n := Nat.div_add_mod' n 16
      simp [hexDigits_of_ge (not_lt.mp hn), hexNumber_append, upper, hexNumber,
        hexValue_hexDigit (Nat.mod_lt n (by decide)), value]

theorem length_hexDigits_le (fuel n : Nat) : (hexDigits fuel n).length ≤ fuel := by
  induction fuel generalizing n with
  | zero => exact Nat.le_refl 0
  | succ fuel ih =>
    by_cases hn : n < 16
    · simp [hexDigits_of_lt hn]
    · simpa [hexDigits_of_ge (not_lt.mp hn)] using ih (n / 16)

theorem hexDigits_ne_nil (fuel n : Nat) : hexDigits (fuel + 1) n ≠ [] := by
  by_cases hn : n < 16
  · simp [hexDigits_of_lt hn]
  · simp [hexDigits_of_ge (not_lt.mp hn)]

/-- The first digit is that of `n / 16`, until one digit is left. -/
theorem head_hexDigits_eq_zero_iff (fuel n : Nat) (h : n < 16 ^ (fuel + 1)) :
    (hexDigits (fuel + 1) n).head? = some '0' ↔ n = 0 := by
  induction fuel generalizing n with
  | zero =>
    have hn : n < 16 := by simpa using h
    simp [hexDigits_of_lt hn, hexDigit_eq_zero_iff hn]
  | succ fuel ih =>
    by_cases hn : n < 16
    · simp [hexDigits_of_lt hn, hexDigit_eq_zero_iff hn]
    · rw [hexDigits_of_ge (not_lt.mp hn), List.head?_append_of_ne_nil _ (hexDigits_ne_nil fuel _),
        ih _ (by rw [Nat.pow_succ] at h; omega)]
      omega

/-- Settles O50: four digits hold every value of 16 bits. -/
theorem hexTextReadsBack : Obligations.HexTextReadsBack := by
  intro v
  have hv : v.toNat < 16 ^ 4 := v.isLt
  refine ⟨hexNumber_hexDigits 4 v.toNat hv, List.length_pos_of_ne_nil (hexDigits_ne_nil 3 v.toNat),
    length_hexDigits_le 4 v.toNat, ?_⟩
  rw [hexPort, head_hexDigits_eq_zero_iff 3 v.toNat hv, ← BitVec.toNat_inj]
  rfl

end Sys2Proof.Proofs

/-! SUPPORT. Proofs of the obligations about the window sequence: one LPC write (R76, R80), one ISA byte write (R76, R96), PROGW (R76, R79), and the programming of 1 to 4 windows (R77). -/

namespace Sys2Proof.Proofs

open Sys2Proof Sys2Proof.Machine Sys2Proof.Laws

/-! ### One action of the host -/

theorem dequeueAction_tickReset (s : State) : dequeueAction (tickReset s) = tickReset (dequeueAction s) := by
  cases hp : s.pending with
  | nil => simp [dequeueAction, tickReset, hp]
  | cons a rest => simp [dequeueAction, tickReset, hp]

/-- On the host's turn the step is its next action, begun. -/
theorem advance_of_action {prog : List HostAction} {s : State} {a : HostAction} (hc : s.cmd = none)
    (hb : s.busy = false) (hr : s.resetIn ≠ some 0) (hn : nextAction prog s = some a) :
    advance prog s = hostAct a (tickReset (dequeueAction s)) := by
  have hn' : nextAction prog (tickReset s) = some a := (nextAction_congr prog rfl rfl).trans hn
  rw [advance_of_host hr hc hb, hostTurn_some hn', dequeueAction_tickReset]

/-! ### The LPC write (R76, R80) -/

/-- The LPC window registers stand four bytes apart (R28). -/
theorem lpcGenericDecode_get (i : Fin 4) :
    Config.printed.lpcGenericDecode.get i = 0x8000F884#32 + 4#32 * BitVec.ofNat 32 i.val := by
  match i with
  | 0 | 1 | 2 | 3 => decide

/-- Settles O46: the step is the configuration write, made at the address of window `i`. -/
theorem lpcWriteSetsOneWindow : Obligations.LpcWriteSetsOneWindow := by
  intro prog s i hc hb hr hn
  have step := advance_of_action hc hb hr hn
  refine ⟨_, step, ?register, fun j hj => ?others, ?address, ?event, ?frame⟩
  case register => simp [cfgWrite32_window]
  case others => simp [cfgWrite32_window, perWindow_get_set_ne _ i j _ hj.symm]
  case address => simp [lpcGenericDecode_get]
  case event => simp [lpcGenericDecode_get]
  case frame =>
    refine ⟨by simp, by simp, by constructor <;> simp, ?_⟩
    simp [hc]

/-! ### The ISA byte write (R76, R96) -/

/-- A write the bridge does not accept changes no register of it (log 13). -/
theorem idxWrite8_unreached (x v : Byte) {s : State} (h : s.bridgeReady = false) :
    (idxWrite8 x v s).isaWin = s.isaWin := by
  simp [idxWrite8, h]

/-- Settles O47: the step is the index write, which the bridge accepts or not. -/
theorem isaWriteSetsOneRegister : Obligations.IsaWriteSetsOneRegister := by
  intro prog s i which hc hb hr hn
  have step := advance_of_action hc hb hr hn
  refine ⟨_, step, fun hready => ?unreached, fun hready => ?accepted, ?event, ?frame⟩
  case unreached => rw [idxWrite8_unreached _ _ (by simpa using hready)]; simp
  case accepted =>
    rw [idxWrite8_window _ _ _ _ (by simpa using hready)]
    exact ⟨by simp, fun j hj => by simp [perWindow_get_set_ne _ i j _ hj.symm]⟩
  case event => simp
  case frame =>
    refine ⟨by simp, by simp, by simp, by constructor <;> simp, ?_⟩
    simp [hc]

/-! ### The host between two operations -/

/-- It is the host's turn, and no reset is due. -/
structure HostsTurn (s : State) : Prop where
  cmd : s.cmd = none
  busy : s.busy = false
  resetIn : s.resetIn = none

theorem hostsTurn_of_quiet {s : State} (h : s.Quiet) : HostsTurn s := ⟨h.cmd, h.busy, h.resetIn⟩

/-- A run from `s` to the quiet state `t` in which the host makes no write: it has the actions `rest` left, holds the variables `vars` and has shown `shown`. -/
structure WriteFreeRun (prog : List HostAction) (s t : State) (rest : List HostAction) (vars : HostVars)
    (shown : List Shown) : Prop where
  leads : LeadsTo prog s t
  quiet : t.Quiet
  pending : t.pending = rest
  hostPos : t.hostPos = s.hostPos
  vars : t.vars = vars
  shown : t.shown = shown
  writes : t.writes = s.writes
  platform : SamePlatform s t

theorem WriteFreeRun.trans {prog : List HostAction} {s t u : State} {rest rest' : List HostAction}
    {vars vars' : HostVars} {shown shown' : List Shown} (h : WriteFreeRun prog s t rest vars shown)
    (h' : WriteFreeRun prog t u rest' vars' shown') : WriteFreeRun prog s u rest' vars' shown' where
  leads := leadsTo_trans h.leads h'.leads
  quiet := h'.quiet
  pending := h'.pending
  hostPos := h'.hostPos.trans h.hostPos
  vars := h'.vars
  shown := h'.shown
  writes := h'.writes.trans h.writes
  platform := ⟨h'.platform.bridgeReady.trans h.platform.bridgeReady,
    h'.platform.cfgAddr.trans h.platform.cfgAddr, h'.platform.lpcWin.trans h.platform.lpcWin,
    h'.platform.isaWin.trans h.platform.isaWin⟩

section HostRun

variable {prog : List HostAction} {s : State} {a : HostAction} {rest : List HostAction}

theorem advance_of_nextAction (h : HostsTurn s) (hn : nextAction prog s = some a) :
    advance prog s = hostAct a (dequeueAction s) := by
  have hr : s.resetIn ≠ some 0 := by simp [h.resetIn]
  rw [advance_of_action h.cmd h.busy hr hn, tickReset_of_none (by simp [h.resetIn])]

theorem advance_of_pending (h : HostsTurn s) (hp : s.pending = a :: rest) :
    advance prog s = hostAct a { s with pending := rest } := by
  rw [advance_of_nextAction h (nextAction_cons hp prog), dequeueAction_cons hp]

/-- An action that was begun earlier and answers a next state leads to it. -/
theorem leadsTo_of_pending {t : State} (h : HostsTurn s) (hp : s.pending = a :: rest)
    (ht : hostAct a { s with pending := rest } = .next t) : LeadsTo prog s t :=
  leadsTo_of_advance ((advance_of_pending h hp).trans ht) (leadsTo_refl prog t)

/-- So does one that goes on in the program and shows something: no write is made. -/
theorem writeFreeRun_of_pending {left : List HostAction} {shown : List Shown} (h : s.Quiet)
    (hp : s.pending = a :: rest)
    (ht : hostAct a { s with pending := rest } = .next { s with pending := left, shown := shown }) :
    WriteFreeRun prog s { s with pending := left, shown := shown } left s.vars shown :=
  ⟨leadsTo_of_pending (hostsTurn_of_quiet h) hp ht, ⟨h.cmd, h.busy, h.resp, h.gathering, h.resetIn⟩,
    rfl, rfl, rfl, rfl, rfl, ⟨rfl, rfl, rfl, rfl⟩⟩

/-- A ready port accepts the command of an operation, which runs. -/
theorem advance_of_encode {i : Instr} (hc : s.cmd = some (encode i)) (hb : s.busy = false)
    (hr : s.resetIn = none) : advance prog s = exec i { s with cmd := none } := by
  rw [advance_of_command (by simp [hr]) hc hb, tickReset_of_none hr,
    acceptCommand_of_decode (decodeOfEncodeIsIdentity i)]

/-- The host presents the command of an operation and the block accepts it. -/
theorem leadsTo_of_present {i : Instr} {t : State} (h : s.Quiet)
    (hp : s.pending = .present (encode i) :: rest) (ht : exec i { s with pending := rest } = .next t) :
    LeadsTo prog s t := by
  have presented : LeadsTo prog s { s with pending := rest, cmd := some (encode i) } :=
    leadsTo_of_pending (hostsTurn_of_quiet h) hp rfl
  have accepted : advance prog { s with pending := rest, cmd := some (encode i) } = .next t := by
    rw [← ht, h.cmd]
    exact advance_of_encode rfl h.busy h.resetIn
  exact leadsTo_trans presented (leadsTo_of_advance accepted (leadsTo_refl prog t))

/-- The host presents an operation that answers with one record, and takes the record (R31, R44). -/
theorem exists_call {i : Instr} {r : Record} (h : s.Quiet)
    (hp : s.pending = .present (encode i) :: .take :: rest) (hi : ∀ s, exec i s = .next (respond r s))
    (hr : (s.vars.receive r).gathering = []) :
    ∃ t, WriteFreeRun prog s t rest (s.vars.receive r) s.shown := by
  have answered : LeadsTo prog s (respond r { s with pending := .take :: rest }) :=
    leadsTo_of_present h hp (hi _)
  have taken : LeadsTo prog (respond r { s with pending := .take :: rest })
      (takeRecord r [] { s with pending := rest }) :=
    leadsTo_of_pending ⟨h.cmd, h.busy, h.resetIn⟩ rfl
      (by simp [hostAct, actTake, takeRecord, respond, h.resp])
  exact ⟨_, leadsTo_trans answered taken, ⟨h.cmd, h.busy, rfl, hr, h.resetIn⟩, rfl, rfl, rfl, rfl, rfl,
    ⟨rfl, rfl, rfl, rfl⟩⟩

/-- The host takes the records of an EXPAND up to DONE; the runs among them are then its run list (R67, R105). -/
theorem leadsTo_takeToDone (rs : List Run) (h : HostsTurn s) (hp : s.pending = .takeToDone :: rest)
    (hresp : s.resp = rs.map .run ++ [.done]) :
    LeadsTo prog s { s with
      pending := rest
      resp := []
      received := s.received ++ (rs.map .run ++ [.done])
      vars := { s.vars with runs := s.vars.gathering ++ rs, gathering := [] } } := by
  induction rs generalizing s with
  | nil =>
    refine leadsTo_of_pending h hp ?_
    simp [hostAct, actTakeToDone, hresp, takeRecord, HostVars.receive]
  | cons r rs ih =>
    have first : LeadsTo prog s
        (takeRecord (.run r) (rs.map .run ++ [.done]) { s with pending := .takeToDone :: rest }) :=
      leadsTo_of_pending h hp (by simp [hostAct, actTakeToDone, hresp, pushActions])
    have others := leadsTo_trans first (ih ⟨h.cmd, h.busy, h.resetIn⟩ rfl rfl)
    simpa [takeRecord, HostVars.receive] using others

/-- The host presents an EXPAND and takes its records: it holds the run list of the range. -/
theorem exists_expand {base mask : Port} (h : s.Quiet)
    (hp : s.pending = .present (encode (.expand base mask)) :: .takeToDone :: rest) :
    ∃ (t : State) (rs : List Run), IsRunList (portMatches Config.printed base mask) rs ∧
      WriteFreeRun prog s t rest { s.vars with runs := rs } s.shown := by
  obtain ⟨b, rs, r, -, hb, hlist, hend⟩ :=
    expandSendsRunListThenDone base mask { s with pending := .takeToDone :: rest }
  have accepted : LeadsTo prog s b := leadsTo_of_present h hp (by rw [hb]; rfl)
  have scanned : LeadsTo prog b (blockMoves 65537 b) :=
    ⟨65537, runSteps_busy prog 65537 (by rw [hb]; exact h.resetIn)
      (by rw [hb]; exact blockMoves_beginScan_busy base mask _)⟩
  have taken := leadsTo_takeToDone (prog := prog) (rest := rest) (rs ++ [r])
    (s := blockMoves 65537 b) (by rw [hend]; exact ⟨h.cmd, rfl, h.resetIn⟩) (by rw [hend])
    (by rw [hend]; simp [h.resp])
  rw [hend] at scanned taken
  refine ⟨_, rs ++ [r], hlist, leadsTo_trans accepted (leadsTo_trans scanned taken),
    ⟨h.cmd, rfl, rfl, rfl, h.resetIn⟩, rfl, rfl, ?_, rfl, rfl, ⟨rfl, rfl, rfl, rfl⟩⟩
  simp [h.gathering]

/-! ### SHOW (R79) -/

/-- SHOW from a quiet state: the host gets the word and the run list of the range and shows them (R76 (a)). -/
theorem exists_show {base mask : Port} (h : s.Quiet) (hp : s.pending = .showRange base mask :: rest) :
    ∃ (t : State) (rs : List Run), IsRunList (portMatches Config.printed base mask) rs ∧
      WriteFreeRun prog s t rest { s.vars with word := encLpc Config.printed base mask, runs := rs }
        (s.shown ++ [⟨encLpc Config.printed base mask, textRuns rs⟩]) := by
  have begun := writeFreeRun_of_pending (prog := prog) (left := showSequence base mask ++ rest)
    (shown := s.shown) h hp (by simp [hostAct, actShow, h.resp, pushActions])
  obtain ⟨u, encoded⟩ := exists_call (prog := prog) (i := .enclpc base mask) begun.quiet rfl (fun _ => rfl)
    h.gathering
  obtain ⟨v, rs, hlist, expanded⟩ := exists_expand (prog := prog) encoded.quiet encoded.pending
  have displayed := writeFreeRun_of_pending (prog := prog) expanded.quiet expanded.pending rfl
  rw [expanded.vars, expanded.shown, encoded.vars, encoded.shown] at displayed
  exact ⟨_, rs, hlist, ((begun.trans encoded).trans expanded).trans displayed⟩

/-! ### The writes of one window (R76 (b), (c)) -/

theorem windowWrites_eq (i : Fin 4) (base mask : Port) :
    windowWrites i base mask = [
      .cfg32 (Config.printed.lpcGenericDecode.get i) (encLpc Config.printed base mask),
      .idx8 (isaIndex Config.printed i .low) (isaLow base),
      .idx8 (isaIndex Config.printed i .high) (isaHigh base),
      .idx8 (isaIndex Config.printed i .mask) (isaMask Config.printed mask)] := by
  rw [isaLow_eq, isaHigh_eq, isaMask_printed, lpcGenericDecode_get]
  match i with
  | 0 | 1 | 2 | 3 => rfl

theorem leadsTo_writeIsa {i : Fin 4} {which : IsaByte} (h : HostsTurn s) (hready : s.bridgeReady = true)
    (hp : s.pending = .writeIsa i which :: rest) :
    LeadsTo prog s { s with
      pending := rest
      writes := s.writes ++ [.idx8 (isaIndex Config.printed i which) (isaValue s.vars which)]
      isaWin := s.isaWin.set i ((s.isaWin.get i).write which (isaValue s.vars which)) } := by
  refine leadsTo_of_pending h hp ?_
  simp [hostAct, actWriteIsa, idxWrite8, isaRegisterAt_table, hready]

/-- The three byte writes of window `i` set its whole group of registers. -/
theorem leadsTo_isaWrites {i : Fin 4} (h : HostsTurn s) (hready : s.bridgeReady = true)
    (hp : s.pending = .writeIsa i .low :: .writeIsa i .high :: .writeIsa i .mask :: rest) :
    LeadsTo prog s { s with
      pending := rest
      writes := s.writes ++ [
        .idx8 (isaIndex Config.printed i .low) s.vars.baseLow,
        .idx8 (isaIndex Config.printed i .high) s.vars.baseHigh,
        .idx8 (isaIndex Config.printed i .mask) s.vars.maskByte]
      isaWin := s.isaWin.set i ⟨s.vars.maskByte, s.vars.baseLow, s.vars.baseHigh⟩ } := by
  have written := leadsTo_trans (leadsTo_writeIsa (prog := prog) h hready hp) <|
    leadsTo_trans (leadsTo_writeIsa ⟨h.cmd, h.busy, h.resetIn⟩ hready rfl)
      (leadsTo_writeIsa ⟨h.cmd, h.busy, h.resetIn⟩ hready rfl)
  simpa [isaValue, IsaWindow.write] using written

/-- What PROGW does after SHOW: the LPC write of the word the host holds, ENCISA, and the byte writes of its triple (R76 (b), (c)). -/
theorem exists_windowWrites {i : Fin 4} {base mask : Port} (h : s.Quiet) (hready : s.bridgeReady = true)
    (hword : s.vars.word = encLpc Config.printed base mask)
    (hp : s.pending = .writeLpc i :: .present (encode (.encisa base mask)) :: .take ::
      .writeIsa i .low :: .writeIsa i .high :: .writeIsa i .mask :: rest) :
    ∃ t : State, LeadsTo prog s t ∧ t.Quiet ∧ t.pending = rest ∧ t.hostPos = s.hostPos ∧
      t.shown = s.shown ∧ t.writes = s.writes ++ windowWrites i base mask ∧
      t.lpcWin = s.lpcWin.set i (encLpc Config.printed base mask) ∧
      t.isaWin = s.isaWin.set i ⟨isaMask Config.printed mask, isaLow base, isaHigh base⟩ ∧
      t.cfgAddr = Config.printed.lpcGenericDecode.get i ∧ t.bridgeReady = true := by
  have wroteLpc := leadsTo_of_pending (prog := prog) (hostsTurn_of_quiet h) hp rfl
  obtain ⟨u, encoded⟩ := exists_call (prog := prog) (i := .encisa base mask)
    (s := cfgWrite32 (Config.printed.lpcGenericDecode.get i) s.vars.word { s with pending := _ })
    (rest := .writeIsa i .low :: .writeIsa i .high :: .writeIsa i .mask :: rest)
    ⟨h.cmd, h.busy, h.resp, h.gathering, h.resetIn⟩ rfl (fun _ => rfl) h.gathering
  have ready : u.bridgeReady = true := encoded.platform.bridgeReady.trans hready
  have wroteIsa := leadsTo_isaWrites (prog := prog) (hostsTurn_of_quiet encoded.quiet) ready encoded.pending
  have quiet := encoded.quiet
  refine ⟨_, leadsTo_trans wroteLpc (leadsTo_trans encoded.leads wroteIsa),
    ⟨quiet.cmd, quiet.busy, quiet.resp, quiet.gathering, quiet.resetIn⟩,
    rfl, encoded.hostPos, encoded.shown, ?writes, ?lpcWin, ?isaWin, encoded.platform.cfgAddr, ready⟩
  case writes => simp [encoded.writes, encoded.vars, windowWrites_eq, hword, HostVars.receive, isaTriple]
  case lpcWin => simp [encoded.platform.lpcWin, cfgWrite32_window, hword]
  case isaWin => simp [encoded.platform.isaWin, encoded.vars, HostVars.receive, isaTriple]

end HostRun

/-! ### PROGW (R76) -/

/-- The index of a window is in the bounds of PROGW. -/
theorem actProgw_window (i : Fin 4) (base mask : Port) (s : State) :
    actProgw i.val base mask s = .next (pushActions (progwSequence i base mask) s) :=
  dif_pos i.isLt

theorem quiet_pushActions_dequeueAction {s : State} (h : s.Quiet) (acts : List HostAction) :
    (pushActions acts (dequeueAction s)).Quiet :=
  ⟨by simp [h.cmd], by simp [h.busy], by simp [h.resp], by simp [h.gathering], by simp [h.resetIn]⟩

/-- Settles O48: PROGW is SHOW, then the writes of its window. -/
theorem progwProgramsOneWindow : Obligations.ProgwProgramsOneWindow := by
  intro prog s i base mask h hready hn
  have step := (advance_of_nextAction (hostsTurn_of_quiet h) hn).trans (actProgw_window i base mask _)
  obtain ⟨t, rs, hlist, shows⟩ :=
    exists_show (prog := prog) (quiet_pushActions_dequeueAction h (progwSequence i base mask)) rfl
  have ready : t.bridgeReady = true := by simp [shows.platform.bridgeReady, hready]
  have hword : t.vars.word = encLpc Config.printed base mask := by rw [shows.vars]
  obtain ⟨u, written, quiet, hpend, hpos, hshown, hwrites, hlpc, hisa, hcfg, ready'⟩ :=
    exists_windowWrites (prog := prog) shows.quiet ready hword shows.pending
  refine ⟨u, rs, leadsTo_of_advance step (leadsTo_trans shows.leads written), quiet, hpend, ?hostPos, hlist,
    ?writes, ?shown, ?lpcWin, ?isaWin, hcfg, ready'⟩
  case hostPos => rw [hpos, shows.hostPos]; rfl
  case writes => simp [hwrites, shows.writes]
  case shown => simp [hshown, shows.shown]
  case lpcWin => simp [hlpc, shows.platform.lpcWin]
  case isaWin => simp [hisa, shows.platform.isaWin]

/-! ### Programming the windows (R77) -/

/-- Window `j` of both chips holds the encodings of a range. -/
def WindowHolds (t : State) (j : Fin 4) (range : DecodeRange) : Prop :=
  t.lpcWin.get j = encLpc Config.printed range.base range.mask ∧
  t.isaWin.get j = ⟨isaMask Config.printed range.mask, isaLow range.base, isaHigh range.base⟩

/-- Window `j` of both chips is the same. -/
def SameWindow (s t : State) (j : Fin 4) : Prop :=
  t.lpcWin.get j = s.lpcWin.get j ∧ t.isaWin.get j = s.isaWin.get j

/-- The PROGW of window `j` with range `j`. -/
def progwOf (ranges : PerWindow DecodeRange) (j : Fin 4) : HostAction :=
  .progw j.val (ranges.get j).base (ranges.get j).mask

/-- A list of PROGWs makes the writes of each in order; the windows it names hold their ranges, the others are the same. -/
theorem exists_progws (prog : List HostAction) (ranges : PerWindow DecodeRange) (js : List (Fin 4)) {s : State}
    {rest : List HostAction} (h : s.Quiet) (hready : s.bridgeReady = true)
    (hp : s.pending = js.map (progwOf ranges) ++ rest) :
    ∃ t : State, LeadsTo prog s t ∧ t.Quiet ∧ t.pending = rest ∧ t.hostPos = s.hostPos ∧
      t.writes = s.writes ++ js.flatMap (fun j => windowWrites j (ranges.get j).base (ranges.get j).mask) ∧
      ∀ j, if j ∈ js then WindowHolds t j (ranges.get j) else SameWindow s t j := by
  induction js generalizing s with
  | nil => exact ⟨s, leadsTo_refl prog s, h, hp, rfl, by simp, fun j => by simp [SameWindow]⟩
  | cons i js ih =>
    obtain ⟨t, _, programmed, quiet, hpend, hpos, -, hwrites, -, hlpc, hisa, -, ready⟩ :=
      progwProgramsOneWindow prog s i _ _ h hready (nextAction_cons hp prog)
    rw [dequeueAction_cons hp] at hpend hpos
    obtain ⟨u, others, quiet', hpend', hpos', hwrites', windows⟩ := ih quiet ready hpend
    refine ⟨u, leadsTo_trans programmed others, quiet', hpend', hpos'.trans hpos, ?writes, fun j => ?windows⟩
    case writes => simp [hwrites', hwrites]
    case windows =>
      by_cases hj : j ∈ js
      · simpa [hj] using windows j
      · obtain ⟨sameLpc, sameIsa⟩ : SameWindow t u j := by simpa [hj] using windows j
        rw [hlpc] at sameLpc
        rw [hisa] at sameIsa
        by_cases hi : j = i
        · subst hi
          rw [perWindow_get_set] at sameLpc sameIsa
          simp [WindowHolds, sameLpc, sameIsa]
        · rw [perWindow_get_set_ne _ i j _ (Ne.symm hi)] at sameLpc sameIsa
          simp [SameWindow, hi, hj, sameLpc, sameIsa]

theorem actProgramWindows_ok {numRanges : Option Nat} (ranges : PerWindow DecodeRange) (s : State)
    (h1 : 1 ≤ numRanges.getD 4) (h4 : numRanges.getD 4 ≤ 4) :
    actProgramWindows numRanges ranges s = .next (pushActions (windowsSequence (numRanges.getD 4) ranges) s) :=
  if_pos ((numRangesOk_iff _).mpr ⟨h1, h4⟩)

theorem length_windowWrites (i : Fin 4) (base mask : Port) : (windowWrites i base mask).length = 4 := rfl

/-- As many windows lie below `n` as `n` says, up to four. -/
theorem length_windowsBelow {n : Nat} (h : n ≤ 4) :
    ((List.finRange 4).filter (fun j => j.val < n)).length = n := by
  revert n
  decide

theorem length_programWrites {n : Nat} (h : n ≤ 4) (ranges : PerWindow DecodeRange) :
    (programWrites n ranges).length = 4 * n := by
  simp [programWrites, List.length_flatMap, length_windowWrites, length_windowsBelow h, Nat.mul_comm]

/-- Settles O49: the windows below `n`, in order, are each programmed by their PROGW. -/
theorem programWindowsInOrder : Obligations.ProgramWindowsInOrder := by
  intro prog s numRanges ranges h hready h1 h4 hn
  have step := (advance_of_nextAction (hostsTurn_of_quiet h) hn).trans (actProgramWindows_ok ranges _ h1 h4)
  obtain ⟨t, programmed, quiet, hpend, hpos, hwrites, windows⟩ := exists_progws prog ranges
    ((List.finRange 4).filter (fun j => j.val < numRanges.getD 4))
    (quiet_pushActions_dequeueAction h (windowsSequence (numRanges.getD 4) ranges)) (by simpa using hready) rfl
  refine ⟨t, leadsTo_of_advance step programmed, quiet, hpend, hpos, ?writes, length_programWrites h4 ranges,
    fun j => ?windows⟩
  case writes => simpa [programWrites] using hwrites
  case windows => simpa [WindowHolds, SameWindow] using windows j

end Sys2Proof.Proofs

/-! SUPPORT. Proofs of the obligations about the codec's laws: the round trip (R55), the exact truncation (R58), and when the two chips get one port set (R53, R54, R63). -/

namespace Sys2Proof.Proofs

open Sys2Proof Sys2Proof.Machine Sys2Proof.Laws

/-! ### Two masks that keep the same of a word -/

/-- Two masks keep the same of a word iff the word is clear where they differ. -/
theorem and_eq_and_iff {w : Nat} (x a b : BitVec w) : x &&& a = x &&& b ↔ x &&& (a ^^^ b) = 0#w := by
  have distrib : x &&& (a ^^^ b) = (x &&& a) ^^^ (x &&& b) := by
    ext i hi
    simp [Bool.and_xor_distrib_left]
  rw [distrib, BitVec.xor_eq_zero_iff]

/-- A mask keeps a whole word iff the word is clear outside it. -/
theorem and_eq_self_iff {w : Nat} (x a : BitVec w) : x &&& a = x ↔ x &&& ~~~a = 0#w := by
  have h := and_eq_and_iff x a (BitVec.allOnes w)
  rwa [BitVec.and_allOnes, BitVec.xor_allOnes] at h

/-- Under a mask the complement of a word is that of its masked bits. -/
theorem not_and_eq_not_masked_and {w : Nat} (x c : BitVec w) : ~~~x &&& c = ~~~(x &&& c) &&& c := by
  rw [BitVec.not_and, BitVec.and_or_distrib_right]
  simp

/-- A mask of one field finds nothing iff the field is 0. -/
theorem and_field_eq_zero_iff {n len m : Nat} (x : BitVec (n + len + m)) :
    x &&& (0#n ++ BitVec.allOnes len ++ 0#m) = 0#(n + len + m) ↔ x.extractLsb' m len = 0#len := by
  constructor
  · intro h
    refine BitVec.eq_of_getLsbD_eq fun i hi => ?_
    have bit := congrArg (·.getLsbD (m + i)) h
    simpa [BitVec.getLsbD_append, hi] using bit
  · intro h
    rw [and_append_fields, BitVec.and_zero, and_lowOnes, extractLsb'_field x (by omega), Nat.add_zero, h]
    simp

/-! ### The round trip of the LPC word (R55) -/

/-- DECLPC masks the two halves of the word. -/
theorem decLpc_printed_halves (hi lo : Port) :
    decLpc Config.printed (hi ++ lo) = ⟨lo &&& 0xFFFC#16, hi &&& 0xFC#16⟩ := by
  have base : (hi ++ lo).setWidth 16 &&& 0xFFFC#16 = lo &&& 0xFFFC#16 := by
    rw [BitVec.setWidth_append_eq_right]
  have mask : (((hi ++ lo) &&& 0x00FC0000#32) >>> 16).setWidth 16 = hi &&& 0xFC#16 := by
    rw [BitVec.setWidth_ushiftRight_eq_extractLsb, BitVec.extractLsb'_and, BitVec.extractLsb'_append_eq_left]
    rfl
  exact congrArg₂ DecodeRange.mk base mask

/-- What ENCLPC and then DECLPC keep of a range. -/
theorem decLpc_encLpc_printed (base mask : Port) :
    decLpc Config.printed (encLpc Config.printed base mask) = ⟨base &&& 0x3FFC#16, mask &&& 0x3C#16⟩ := by
  rw [encLpc_printed_halves, decLpc_printed_halves]
  simp [BitVec.and_or_distrib_right, BitVec.and_assoc]

/-- What DECLPC and then ENCLPC keep of a word, its halves apart. -/
theorem encLpc_decLpc_printed_halves (hi lo : Port) :
    encLpc Config.printed (decLpc Config.printed (hi ++ lo)).base (decLpc Config.printed (hi ++ lo)).mask =
      (hi ++ lo) &&& (0x003C#16 ++ 0x3FFC#16) ||| (0#16 ++ 1#16) := by
  rw [decLpc_printed_halves, encLpc_printed_halves, BitVec.and_append, BitVec.or_append]
  simp [BitVec.and_assoc]

/-- Settles O13: each way is its formula's masks, and two ways agree iff the bits their masks differ in are clear. -/
theorem roundTripOfTheLpcWord : Obligations.RoundTripOfTheLpcWord := by
  refine ⟨decLpc_encLpc_printed, fun base mask => ?sourceClaim, fun base mask => ?returns, fun word => ?word⟩
  case sourceClaim =>
    have hbase := and_field_eq_zero_iff (n := 0) (len := 2) (m := 14) base
    have hmask := and_field_eq_zero_iff (n := 14) (len := 2) (m := 0) mask
    rw [decLpc_encLpc_printed, DecodeRange.mk.injEq, and_eq_and_iff, and_eq_and_iff, ← hbase, ← hmask]
    rfl
  case returns =>
    rw [decLpc_encLpc_printed, DecodeRange.mk.injEq, and_eq_self_iff, and_eq_self_iff]
    rfl
  case word =>
    have halves := encLpc_decLpc_printed_halves (word.extractLsb' 16 16) (word.extractLsb' 0 16)
    rwa [BitVec.extractLsb'_append_extractLsb' (w := 16) (len := 16)] at halves

/-! ### Truncation is exact (R58) -/

/-- Cutting an integer to 16 bits keeps what a 16-bit mask keeps. -/
theorem toNat_cutToPort_and (n : Nat) (c : Port) : (cutToPort n &&& c).toNat = n &&& c.toNat := by
  have cut : cutToPort n &&& c = BitVec.ofNat 16 (n &&& c.toNat) := by
    rw [BitVec.ofNat_and, BitVec.ofNat_toNat, BitVec.setWidth_eq]
    rfl
  rw [cut, BitVec.toNat_ofNat, Nat.mod_eq_of_lt (lt_of_le_of_lt Nat.and_le_right c.isLt)]

theorem setWidth_cutToPort (n : Nat) : (cutToPort n).setWidth 8 = BitVec.ofNat 8 n := by
  rw [cutToPort, BitVec.setWidth_ofNat_of_le (by decide)]

theorem toNat_encLpc_cutToPort (b m : Nat) :
    (encLpc Config.printed (cutToPort b) (cutToPort m)).toNat =
      (b &&& 0x3FFF) ||| ((m &&& 0x3F) <<< 16) ||| 1 := by
  rw [encLpc_printed_halves, BitVec.toNat_append, BitVec.toNat_or, toNat_cutToPort_and, toNat_cutToPort_and,
    ← Nat.lor_assoc, Nat.lor_comm (_ <<< 16)]
  rfl

theorem toNat_isaLow_cutToPort (b : Nat) : (isaLow (cutToPort b)).toNat = b &&& 0xFF := by
  rw [isaLow, setWidth_cutToPort, BitVec.toNat_ofNat, ← Nat.and_two_pow_sub_one_eq_mod]

theorem toNat_isaHigh_cutToPort (b : Nat) : (isaHigh (cutToPort b)).toNat = (b >>> 8) &&& 0xFF := by
  have cut : b % 2 ^ 16 / 2 ^ 8 % 2 ^ 8 = b / 2 ^ 8 % 2 ^ 8 := by omega
  rw [isaHigh, BitVec.toNat_setWidth, BitVec.toNat_ushiftRight, cutToPort, BitVec.toNat_ofNat,
    Nat.shiftRight_eq_div_pow, cut, ← Nat.shiftRight_eq_div_pow, ← Nat.and_two_pow_sub_one_eq_mod]

theorem toNat_isaMask_cutToPort (m : Nat) :
    (isaMask Config.printed (cutToPort m)).toNat = (m ||| 3) &&& 0xFF :=
  calc ((cutToPort m).setWidth 8 ||| 3#8).toNat
    _ = (BitVec.ofNat 8 (m ||| 3)).toNat := by rw [setWidth_cutToPort, BitVec.ofNat_or]
    _ = (m ||| 3) &&& 0xFF := by rw [BitVec.toNat_ofNat, ← Nat.and_two_pow_sub_one_eq_mod]

/-- Settles O14: no formula of the codec reads a bit above the low 16. -/
theorem truncationLosesNothing : Obligations.TruncationLosesNothing := fun b m =>
  ⟨toNat_encLpc_cutToPort b m, toNat_isaLow_cutToPort b, toNat_isaHigh_cutToPort b, toNat_isaMask_cutToPort m⟩

/-! ### When two ranges are one port set (R63) -/

theorem or_eq_right_of_and_not_eq_zero {w : Nat} {e f : BitVec w} (h : e &&& ~~~f = 0#w) : e ||| f = f := by
  have sub := (or_right_inj_iff_and_not_inj e 0#w f).mpr (h.trans BitVec.zero_and.symm)
  rwa [BitVec.zero_or] at sub

/-- Words that set no bit outside each other are equal. -/
theorem eq_of_and_not_eq_zero {w : Nat} {e f : BitVec w} (hef : e &&& ~~~f = 0#w) (hfe : f &&& ~~~e = 0#w) :
    e = f := by
  rw [← or_eq_right_of_and_not_eq_zero hfe, BitVec.or_comm, or_eq_right_of_and_not_eq_zero hef]

/-- A base's canonical identity depends on the effective mask alone. -/
theorem canonicalBase_congr {k : Config} {m m' : Port} (h : effMask k m = effMask k m') (b : Port) :
    canonicalBase k b m = canonicalBase k b m' := by
  rw [canonicalBase, canonicalBase, h]

/-- A range within another frees no bit that the other compares. -/
theorem effMask_and_not_eq_zero {k : Config} {b m b' m' : Port}
    (h : ∀ p, portMatches k b m p = true → portMatches k b' m' p = true) :
    effMask k m &&& ~~~(effMask k m') = 0#16 := by
  have flipped : portMatches k b m (b ^^^ effMask k m) = true := by
    rw [portMatches_iff_canonicalBase_eq, canonicalBase, canonicalBase, ← xor_and_not_eq_zero_iff,
      BitVec.xor_comm, ← BitVec.xor_assoc]
    simp
  have same := (portMatches_iff_canonicalBase_eq k b' m' _).mp (h _ flipped)
  rw [← (portMatches_iff_canonicalBase_eq k b' m' b).mp (h b (beq_self_eq_true _)), canonicalBase, canonicalBase,
    ← xor_and_not_eq_zero_iff, BitVec.xor_comm, ← BitVec.xor_assoc] at same
  simpa using same

/-- Two ranges are one port set iff they have one effective mask and one canonical identity (R12). -/
theorem portMatches_eq_iff (k : Config) (b m b' m' : Port) :
    (∀ p, portMatches k b m p = portMatches k b' m' p) ↔
      effMask k m = effMask k m' ∧ canonicalBase k b m = canonicalBase k b' m' := by
  constructor
  · intro h
    have base : portMatches k b' m' b = true := (h b).symm.trans (beq_self_eq_true _)
    have mask : effMask k m = effMask k m' := eq_of_and_not_eq_zero
      (effMask_and_not_eq_zero fun p hp => (h p).symm.trans hp) (effMask_and_not_eq_zero fun p hp => (h p).trans hp)
    exact ⟨mask, (canonicalBase_congr mask b).trans ((portMatches_iff_canonicalBase_eq k b' m' b).mp base)⟩
  · rintro ⟨mask, base⟩ p
    rw [Bool.eq_iff_iff, portMatches_iff_canonicalBase_eq, portMatches_iff_canonicalBase_eq, base,
      canonicalBase_congr mask p]

/-! ### The two chips' encodings of one range -/

/-- The two address bytes of the triple are the base. -/
theorem isaHigh_append_isaLow (base : Port) : isaHigh base ++ isaLow base = base := by
  rw [isaHigh_eq, isaLow_eq]
  exact BitVec.extractLsb'_append_extractLsb' (w := 8) (len := 8)

/-- The mask byte frees mask bits 7:2, and the two low bits. -/
theorem effMask_isaMask (mask : Port) :
    effMask Config.printed ((isaMask Config.printed mask).setWidth 16) = (mask &&& 0xFF#16) ||| 3#16 := by
  have low : (mask.setWidth 8).setWidth 16 = mask &&& 0xFF#16 := by
    rw [BitVec.setWidth_eq_extractLsb' (show 8 ≤ 16 by decide), BitVec.setWidth_eq_append (by decide)]
    exact (and_lowOnes (n := 8) (m := 8) mask).symm
  calc (mask.setWidth 8 ||| 3#8).setWidth 16 ||| 3#16
    _ = mask &&& 0xFF#16 ||| (3#16 ||| 3#16) := by rw [BitVec.setWidth_or, low, BitVec.or_assoc]; rfl
    _ = mask &&& 0xFF#16 ||| 3#16 := by rw [BitVec.or_self]

/-- The word read back frees the bits the triple does iff mask bits 7:6 are 0. -/
theorem encodings_effMask_eq_iff (mask : Port) :
    effMask Config.printed (mask &&& 0x3C#16) =
      effMask Config.printed ((isaMask Config.printed mask).setWidth 16) ↔ mask.extractLsb' 6 2 = 0#2 := by
  have field := and_field_eq_zero_iff (n := 8) (len := 2) (m := 6) mask
  have compared : ∀ c : Port, (mask &&& c) &&& ~~~3#16 = mask &&& (c &&& 0xFFFC#16) :=
    fun c => BitVec.and_assoc ..
  rw [effMask_isaMask, ← field]
  change (mask &&& 0x3C#16) ||| 3#16 = _ ↔ _
  rw [or_right_inj_iff_and_not_inj, compared, compared, and_eq_and_iff]
  rfl

/-- The word read back has the base's canonical identity iff base bits 15:14 are 0. -/
theorem encodings_canonicalBase_eq_iff (base mask : Port) :
    canonicalBase Config.printed (base &&& 0x3FFC#16) (mask &&& 0x3C#16) =
      canonicalBase Config.printed base (mask &&& 0x3C#16) ↔ base.extractLsb' 14 2 = 0#2 := by
  have field := and_field_eq_zero_iff (n := 0) (len := 2) (m := 14) base
  have dropped : ~~~((mask &&& 0x3C#16) ||| 3#16) &&& ~~~0x3FFC#16 = 0xC000#16 := by
    rw [not_and_eq_not_masked_and, BitVec.and_or_distrib_right, BitVec.and_assoc]
    simp
  change (base &&& 0x3FFC#16) &&& ~~~((mask &&& 0x3C#16) ||| 3#16) = base &&& ~~~((mask &&& 0x3C#16) ||| 3#16) ↔ _
  rw [← field, BitVec.and_assoc, BitVec.and_comm 0x3FFC#16, ← BitVec.and_assoc, and_eq_self_iff, BitVec.and_assoc,
    dropped]
  rfl

/-- Settles O15: the two ranges have one effective mask iff mask bits 7:6 are 0, and then one identity iff base bits 15:14 are. -/
theorem encodingsAgreeExactlyWhen : Obligations.EncodingsAgreeExactlyWhen := by
  intro base mask
  have bytes : (isaTriple Config.printed base mask).2.1 ++ (isaTriple Config.printed base mask).1 = base :=
    isaHigh_append_isaLow base
  rw [portMatches_eq_iff, decLpc_encLpc_printed, bytes, and_comm (b := mask.extractLsb' 6 2 = 0#2),
    ← encodings_effMask_eq_iff]
  refine and_congr_right fun sameMask => ?_
  rw [← encodings_canonicalBase_eq_iff base mask, canonicalBase_congr sameMask base]

end Sys2Proof.Proofs

/-! SUPPORT. Proofs of the obligations about the run list of a range: the ports of a zero mask (R63), the closed form (R69), its counts (R70), and the ends of its runs. -/

namespace Sys2Proof.Proofs

open Sys2Proof Sys2Proof.Machine Sys2Proof.Laws

/-! ### Aligned blocks of ports -/

/-- `2^k - 1` as a port, `L` of R69: the `k` low ones. -/
def lowOnes (k : Nat) : Port := BitVec.ofNat 16 (2 ^ k - 1)

section Blocks

variable {k : Nat} {x y : Port}

theorem getLsbD_lowOnes (hk : k ≤ 16) (i : Nat) : (lowOnes k).getLsbD i = decide (i < k) := by
  rw [lowOnes, BitVec.getLsbD_ofNat, Nat.testBit_two_pow_sub_one, ← Bool.decide_and]
  exact decide_eq_decide.mpr ⟨And.right, fun h => ⟨by omega, h⟩⟩

theorem toNat_lowOnes (hk : k ≤ 16) : (lowOnes k).toNat = 2 ^ k - 1 := by
  have pos := Nat.two_pow_pos k
  have le : 2 ^ k ≤ 2 ^ 16 := Nat.pow_le_pow_right (by decide) hk
  rw [lowOnes, BitVec.toNat_ofNat, Nat.mod_eq_of_lt (by omega)]

/-- A word clear in its `k` low bits is a multiple of `2^k`. -/
theorem two_pow_dvd_of_and_lowOnes (hk : k ≤ 16) (hx : x &&& lowOnes k = 0#16) : 2 ^ k ∣ x.toNat := by
  have low := congrArg BitVec.toNat hx
  rw [BitVec.toNat_and, toNat_lowOnes hk, Nat.and_two_pow_sub_one_eq_mod] at low
  exact Nat.dvd_of_mod_eq_zero low

/-- The block at `x` has `2^k` ports. -/
theorem toNat_or_lowOnes (hk : k ≤ 16) (hx : x &&& lowOnes k = 0#16) :
    (x ||| lowOnes k).toNat + 1 = x.toNat + 2 ^ k := by
  have pos := Nat.two_pow_pos k
  rw [← BitVec.add_eq_or_of_and_eq_zero _ _ hx, BitVec.toNat_add_of_and_eq_zero hx, toNat_lowOnes hk]
  omega

/-- Clearing the `k` low bits rounds down to a multiple of `2^k`. -/
theorem toNat_and_not_lowOnes (hk : k ≤ 16) (p : Port) :
    (p &&& ~~~(lowOnes k)).toNat = 2 ^ k * (p.toNat / 2 ^ k) := by
  have disjoint : (p &&& ~~~(lowOnes k)) &&& (p &&& lowOnes k) = 0#16 := by
    ext i hi
    cases h : (lowOnes k)[i] <;> simp [h]
  have whole : (p &&& ~~~(lowOnes k)) ||| (p &&& lowOnes k) = p := by
    ext i hi
    cases h : (lowOnes k)[i] <;> simp [h]
  have sum := BitVec.toNat_add_of_and_eq_zero disjoint
  rw [BitVec.add_eq_or_of_and_eq_zero _ _ disjoint, whole, BitVec.toNat_and p (lowOnes k), toNat_lowOnes hk,
    Nat.and_two_pow_sub_one_eq_mod] at sum
  have quotient := Nat.div_add_mod p.toNat (2 ^ k)
  omega

/-- The ports of the block at `x` are those that are `x` when their `k` low bits are cleared. -/
theorem mem_block_iff (hk : k ≤ 16) (hx : x &&& lowOnes k = 0#16) (p : Port) :
    (x ≤ p ∧ p ≤ x ||| lowOnes k) ↔ p &&& ~~~(lowOnes k) = x := by
  have size := toNat_or_lowOnes hk hx
  have pos := Nat.two_pow_pos k
  obtain ⟨a, ha⟩ := two_pow_dvd_of_and_lowOnes hk hx
  rw [BitVec.le_def, BitVec.le_def, ← BitVec.toNat_inj, toNat_and_not_lowOnes hk, ha, Nat.mul_right_inj pos.ne',
    Nat.div_eq_iff pos, Nat.mul_comm a]
  omega

/-- A block of at least four ports starts at a multiple of four and ends three above one. -/
theorem block_low_field (hk : k ≤ 16) (h2 : 2 ≤ k) (hx : x &&& lowOnes k = 0#16) :
    x.extractLsb' 0 2 = 0#2 ∧ (x ||| lowOnes k).extractLsb' 0 2 = 3#2 := by
  have ones : (lowOnes k).extractLsb' 0 2 = BitVec.allOnes 2 := by
    refine BitVec.eq_of_getLsbD_eq fun i hi => ?_
    rw [BitVec.getLsbD_extractLsb', getLsbD_lowOnes hk, BitVec.getLsbD_allOnes]
    simp [hi, lt_of_lt_of_le hi h2]
  have low := congrArg (BitVec.extractLsb' 0 2) hx
  rw [BitVec.extractLsb'_and, ones, BitVec.and_allOnes] at low
  rw [BitVec.extractLsb'_or, ones, BitVec.or_allOnes]
  exact ⟨low, rfl⟩

/-- Two blocks whose starts agree in bit `k` are not adjacent. -/
theorem block_gap (hk : k ≤ 16) (hx : x &&& lowOnes k = 0#16) (hy : y &&& lowOnes k = 0#16)
    (hlt : x.toNat < y.toNat) (hbit : x.getLsbD k = y.getLsbD k) :
    (x ||| lowOnes k).toNat + 1 < y.toNat := by
  obtain ⟨a, ha⟩ := two_pow_dvd_of_and_lowOnes hk hx
  obtain ⟨b, hb⟩ := two_pow_dvd_of_and_lowOnes hk hy
  have pos := Nat.two_pow_pos k
  have parity : a % 2 = 1 ↔ b % 2 = 1 := by
    simpa [BitVec.getLsbD, Nat.testBit_eq_decide_div_mod_eq, ha, hb, pos] using hbit
  have order : a < b := by
    rw [ha, hb] at hlt
    exact Nat.lt_of_mul_lt_mul_left hlt
  calc (x ||| lowOnes k).toNat + 1
    _ = 2 ^ k * (a + 1) := by rw [toNat_or_lowOnes hk hx, ha, Nat.mul_succ]
    _ < 2 ^ k * b := Nat.mul_lt_mul_of_pos_left (by omega) pos
    _ = y.toNat := hb.symm

end Blocks

/-! ### The ports of a zero mask (R63) -/

/-- Settles O19: the identity `base & 0xFFFC` is that of the ports of the block of four that starts there. -/
theorem zeroMaskCoversFourPorts : Obligations.ZeroMaskCoversFourPorts := by
  intro base p
  have two : (2 : Nat) ≤ 16 := by decide
  have aligned : base &&& 0xFFFC#16 &&& lowOnes 2 = 0#16 := by
    rw [BitVec.and_assoc]
    exact BitVec.and_zero
  have top := toNat_or_lowOnes two aligned
  have block := mem_block_iff two aligned p
  rw [BitVec.le_def, BitVec.le_def] at block
  refine (portMatches_iff_canonicalBase_eq Config.printed base 0#16 p).trans (block.symm.trans ?_)
  omega

/-! ### The trailing ones of a word (R6) -/

theorem tones_eq_findIdx (v : Port) : tones v = (List.range 16).findIdx (fun i => !v.getLsbD i) := by
  rw [tones, List.takeWhile_eq_take_findIdx_not, List.length_take]
  exact Nat.min_eq_left List.findIdx_le_length

theorem tones_le (v : Port) : tones v ≤ 16 := by
  rw [tones_eq_findIdx]
  exact List.findIdx_le_length

theorem getLsbD_of_lt_tones {v : Port} {i : Nat} (h : i < tones v) : v.getLsbD i = true := by
  rw [tones_eq_findIdx] at h
  simpa using List.not_of_lt_findIdx h

/-- The bit above the trailing ones is 0, and so is the one above all 16. -/
theorem getLsbD_tones (v : Port) : v.getLsbD (tones v) = false := by
  by_cases h : tones v < 16
  · rw [tones_eq_findIdx] at h ⊢
    have hit := List.findIdx_getElem (w := by rwa [List.length_range])
    simpa using hit
  · exact BitVec.getLsbD_of_ge v _ (not_lt.mp h)

/-! ### The free bits above the trailing ones (R69) -/

/-- `H` of R69: the free bits above the low block. -/
def freeAbove (e : Port) : Port := e &&& ~~~(lowOnes (tones e))

section FreeAbove

variable (e : Port)

theorem getLsbD_freeAbove (i : Nat) :
    (freeAbove e).getLsbD i = (e.getLsbD i && !decide (i < tones e)) := by
  rw [freeAbove, BitVec.getLsbD_and, BitVec.getLsbD_not, getLsbD_lowOnes (tones_le e)]
  cases he : e.getLsbD i with
  | false => rfl
  | true => simp [BitVec.lt_of_getLsbD he]

theorem lowOnes_tones_and_not : lowOnes (tones e) &&& ~~~e = 0#16 := by
  refine BitVec.eq_of_getLsbD_eq fun i _ => ?_
  rw [BitVec.getLsbD_and, getLsbD_lowOnes (tones_le e)]
  by_cases h : i < tones e
  · simp [getLsbD_of_lt_tones h]
  · simp [h]

theorem freeAbove_and_not : freeAbove e &&& ~~~e = 0#16 := by
  rw [freeAbove, BitVec.and_comm e, BitVec.and_assoc]
  simp

theorem freeAbove_and_lowOnes : freeAbove e &&& lowOnes (tones e) = 0#16 := by
  rw [freeAbove, BitVec.and_assoc]
  simp

/-- The free bits are those above and the low block. -/
theorem freeAbove_or_lowOnes : freeAbove e ||| lowOnes (tones e) = e := by
  rw [freeAbove, and_not_or_self, BitVec.or_comm, or_eq_right_of_and_not_eq_zero (lowOnes_tones_and_not e)]

/-- A bit outside the low block is compared, or free above it. -/
theorem not_or_freeAbove : ~~~e ||| freeAbove e = ~~~(lowOnes (tones e)) := by
  have outside : freeAbove e &&& ~~~(~~~(lowOnes (tones e))) = 0#16 := by
    rw [BitVec.not_not, freeAbove_and_lowOnes]
  calc ~~~e ||| freeAbove e
    _ = ~~~(freeAbove e ||| lowOnes (tones e)) ||| freeAbove e := by rw [freeAbove_or_lowOnes]
    _ = ~~~(lowOnes (tones e)) := by
      rw [BitVec.not_or, BitVec.and_comm, and_not_or_self, BitVec.or_comm, or_eq_right_of_and_not_eq_zero outside]

end FreeAbove

/-! ### The closed form (R69) -/

/-- The words whose bits lie in `h`, ascending. -/
def subwords (h : Port) : List Port :=
  ((List.range 65536).map (BitVec.ofNat 16)).filter (fun s => s &&& ~~~h = 0#16)

/-- The block of `2^k` ports at `x`, as a run. -/
def blockRun (k : Nat) (x : Port) : Run := ⟨x, x ||| lowOnes k⟩

theorem closedRuns_eq (k : Config) (base mask : Port) :
    closedRuns k base mask = (subwords (freeAbove (effMask k mask))).map
      (fun s => blockRun (tones (effMask k mask)) (canonicalBase k base mask ||| s)) := rfl

theorem mem_subwords {h s : Port} : s ∈ subwords h ↔ s &&& ~~~h = 0#16 := by
  have listed : ∃ n < 65536, BitVec.ofNat 16 n = s := ⟨s.toNat, s.isLt, BitVec.ofNat_toNat ..⟩
  simp [subwords, listed]

theorem pairwise_subwords (h : Port) : (subwords h).Pairwise (fun s t => s.toNat < t.toNat) := by
  refine List.Pairwise.filter _ (List.pairwise_map.mpr ?_)
  refine List.pairwise_lt_range.imp_of_mem fun hm hn hlt => ?_
  rw [BitVec.toNat_ofNat, BitVec.toNat_ofNat, Nat.mod_eq_of_lt (List.mem_range.mp hm),
    Nat.mod_eq_of_lt (List.mem_range.mp hn)]
  exact hlt

/-- What lies in `h` shares no bit with what is disjoint from `h`. -/
theorem and_eq_zero_of_and_not_eq_zero {w : Nat} {s h x : BitVec w} (hs : s &&& ~~~h = 0#w) (hx : h &&& x = 0#w) :
    s &&& x = 0#w := by
  have inside := (and_eq_self_iff s h).mpr hs
  rw [← inside, BitVec.and_assoc, hx, BitVec.and_zero]

section Placed

variable {e c s t : Port}

/-- A free word placed on an identity starts a block. -/
theorem placed_and_lowOnes (hc : e &&& c = 0#16) (hs : s ∈ subwords (freeAbove e)) :
    (c ||| s) &&& lowOnes (tones e) = 0#16 := by
  rw [BitVec.and_or_distrib_right, BitVec.and_comm c,
    and_eq_zero_of_and_not_eq_zero (lowOnes_tones_and_not e) hc,
    and_eq_zero_of_and_not_eq_zero (mem_subwords.mp hs) (freeAbove_and_lowOnes e), BitVec.or_zero]

theorem toNat_placed (hc : e &&& c = 0#16) (hs : s ∈ subwords (freeAbove e)) :
    (c ||| s).toNat = s.toNat + c.toNat := by
  have disjoint := and_eq_zero_of_and_not_eq_zero (mem_subwords.mp hs)
    (and_eq_zero_of_and_not_eq_zero (freeAbove_and_not e) hc)
  rw [BitVec.or_comm, ← BitVec.add_eq_or_of_and_eq_zero _ _ disjoint, BitVec.toNat_add_of_and_eq_zero disjoint]

/-- Words placed on an identity keep their order. -/
theorem placed_lt_placed (hc : e &&& c = 0#16) (hs : s ∈ subwords (freeAbove e)) (ht : t ∈ subwords (freeAbove e))
    (hlt : s.toNat < t.toNat) : (c ||| s).toNat < (c ||| t).toNat := by
  rw [toNat_placed hc hs, toNat_placed hc ht]
  exact Nat.add_lt_add_right hlt _

theorem placed_and_not (hc : e &&& c = 0#16) (hs : s ∈ subwords (freeAbove e)) : (c ||| s) &&& ~~~e = c := by
  have identity := (and_eq_self_iff c (~~~e)).mpr (by rw [BitVec.not_not, BitVec.and_comm, hc])
  rw [BitVec.and_or_distrib_right, identity,
    and_eq_zero_of_and_not_eq_zero (mem_subwords.mp hs) (freeAbove_and_not e), BitVec.or_zero]

/-- Words placed on one identity agree in the bit above the low block, which is compared. -/
theorem getLsbD_placed_tones (hs : s ∈ subwords (freeAbove e)) :
    (c ||| s).getLsbD (tones e) = c.getLsbD (tones e) := by
  rw [← (and_eq_self_iff s (freeAbove e)).mpr (mem_subwords.mp hs)]
  simp [getLsbD_freeAbove, getLsbD_tones]

/-- A port has the identity `c` iff its low block starts at a free word placed on `c`. -/
theorem exists_placed_iff (hc : e &&& c = 0#16) (p : Port) :
    (∃ s ∈ subwords (freeAbove e), p &&& ~~~(lowOnes (tones e)) = c ||| s) ↔ p &&& ~~~e = c := by
  constructor
  · rintro ⟨s, hs, hp⟩
    rw [← placed_and_not hc hs, ← hp, BitVec.and_assoc, ← BitVec.not_or,
      or_eq_right_of_and_not_eq_zero (lowOnes_tones_and_not e)]
  · rintro rfl
    refine ⟨p &&& freeAbove e, mem_subwords.mpr ?_, ?_⟩
    · simp [BitVec.and_assoc]
    · rw [← not_or_freeAbove, BitVec.and_or_distrib_left]

end Placed

theorem effMask_and_canonicalBase (k : Config) (base mask : Port) :
    effMask k mask &&& canonicalBase k base mask = 0#16 := by
  rw [canonicalBase, BitVec.and_comm base, ← BitVec.and_assoc]
  simp

/-- Settles O26: a match is a port whose low block starts at a free word placed on the identity; two such blocks agree in
the compared bit above them, so they are not adjacent. -/
theorem closedFormIsTheRunList : Obligations.ClosedFormIsTheRunList := by
  intro k base mask
  have hc := effMask_and_canonicalBase k base mask
  have hk := tones_le (effMask k mask)
  rw [closedRuns_eq]
  constructor
  case exhaustive =>
    intro p
    refine Iff.trans ?_ ((exists_placed_iff hc p).trans (portMatches_iff_canonicalBase_eq k base mask p).symm)
    simp only [List.mem_map, exists_exists_and_eq_and]
    exact exists_congr fun s => and_congr_right fun hs => mem_block_iff hk (placed_and_lowOnes hc hs) p
  case ordered =>
    refine List.forall_mem_map.mpr fun s hs => ?_
    have size := toNat_or_lowOnes hk (placed_and_lowOnes hc hs)
    have pos := Nat.two_pow_pos (tones (effMask k mask))
    exact BitVec.le_def.mpr (by simp only [blockRun]; omega)
  case separated =>
    refine List.pairwise_map.mpr ((pairwise_subwords _).imp_of_mem fun hs ht hlt => ?_)
    exact block_gap hk (placed_and_lowOnes hc hs) (placed_and_lowOnes hc ht) (placed_lt_placed hc hs ht hlt)
      ((getLsbD_placed_tones hs).trans (getLsbD_placed_tones ht).symm)

/-! ### Counting the words within the free bits (R70) -/

theorem popcount_eq_countP (v : Port) : popcount v = (List.range 16).countP (fun i => v.getLsbD i) :=
  List.countP_eq_length_filter.symm

/-- Of the free bits `tones e` are the trailing ones, and the others lie above them. -/
theorem popcount_eq_tones_add (e : Port) : popcount e = tones e + popcount (freeAbove e) := by
  have below : ∀ k ≤ 16, (List.range 16).countP (fun i => decide (i < k)) = k := by decide
  have trailing : (List.range 16).countP (fun i => e.getLsbD i && decide (i < tones e)) = tones e := by
    refine (List.countP_congr fun i _ => ?_).trans (below (tones e) (tones_le e))
    rw [Bool.and_eq_true, and_iff_right_iff_imp, decide_eq_true_eq]
    exact getLsbD_of_lt_tones
  rw [popcount_eq_countP, popcount_eq_countP, List.countP_eq_countP_filter_add _ _ (fun i => decide (i < tones e)),
    List.countP_filter, List.countP_filter, trailing]
  simp only [getLsbD_freeAbove]

/-- With two trailing ones at most 13 free bits lie above the low block and the compared bit. -/
theorem popcount_freeAbove_le {e : Port} (h : 2 ≤ tones e) : popcount (freeAbove e) ≤ 13 := by
  have above : ∀ i ∈ List.range 16, (freeAbove e).getLsbD i = true → decide (3 ≤ i) = true := by
    intro i _ hi
    simp only [getLsbD_freeAbove, Bool.and_eq_true, Bool.not_eq_true', decide_eq_false_iff_not] at hi
    obtain ⟨free, notTrailing⟩ := hi
    have compared : i ≠ tones e := fun hit => by simp [hit, getLsbD_tones] at free
    exact decide_eq_true (by omega)
  rw [popcount_eq_countP]
  exact List.countP_mono_left above

/-- Whether the word numbered `n` lies in `h`. -/
def isSubword (h : Port) (n : Nat) : Bool := BitVec.ofNat 16 n &&& ~~~h = 0#16

theorem isSubword_two_pow (h : Port) {w : Nat} (hw : w < 16) : isSubword h (2 ^ w) = h.getLsbD w := by
  have word : BitVec.ofNat 16 (2 ^ w) = BitVec.twoPow 16 w :=
    BitVec.eq_of_toNat_eq ((BitVec.toNat_ofNat ..).trans (BitVec.toNat_twoPow ..).symm)
  have nonzero : BitVec.twoPow 16 w ≠ 0#16 := fun e => by
    simpa [BitVec.toNat_twoPow_of_lt hw] using congrArg BitVec.toNat e
  rw [isSubword, word, BitVec.twoPow_and, BitVec.getLsbD_not]
  cases hbit : h.getLsbD w with
  | true => simp
  | false => simp [hw, nonzero]

/-- A number with bit `w` on top lies in `h` iff that bit does and the rest does. -/
theorem isSubword_two_pow_add (h : Port) {w n : Nat} (hw : w < 16) (hn : n < 2 ^ w) :
    isSubword h (2 ^ w + n) = (h.getLsbD w && isSubword h n) := by
  have top := Nat.two_pow_add_eq_or_of_lt hn 1
  rw [Nat.mul_one] at top
  rw [← isSubword_two_pow h hw, isSubword, isSubword, isSubword, top, BitVec.ofNat_or, BitVec.and_or_distrib_right,
    ← Bool.decide_and, decide_eq_decide]
  exact BitVec.or_eq_zero_iff

/-- Each bit of `h` doubles the words that lie in it. -/
theorem countP_isSubword (h : Port) (w : Nat) (hw : w ≤ 16) :
    (List.range (2 ^ w)).countP (isSubword h) = 2 ^ (List.range w).countP (fun i => h.getLsbD i) := by
  induction w with
  | zero => simp [isSubword]
  | succ w ih =>
    have upper : (List.range (2 ^ w)).countP (fun n => isSubword h (2 ^ w + n)) =
        (List.range (2 ^ w)).countP (fun n => h.getLsbD w && isSubword h n) :=
      List.countP_congr fun n hn => by rw [isSubword_two_pow_add h hw (List.mem_range.mp hn)]
    rw [Nat.pow_succ, Nat.mul_two, List.range_add, List.countP_append, List.countP_map, Function.comp_def, upper,
      List.range_succ, List.countP_append, ih (by omega)]
    cases hbit : h.getLsbD w with
    | false => simp [hbit]
    | true => simp [hbit, ih (Nat.le_of_succ_le hw), Nat.pow_succ, Nat.mul_two]

theorem length_subwords (h : Port) : (subwords h).length = 2 ^ popcount h := by
  rw [popcount_eq_countP, ← countP_isSubword h 16 le_rfl, subwords, ← List.countP_eq_length_filter, List.countP_map]
  rfl

/-! ### The runs of a range (R69, R70) -/

/-- The granularity: the two low bits are free (R62). -/
theorem two_le_tones (mask : Port) : 2 ≤ tones (effMask Config.printed mask) :=
  ((getLsbD_or_gran_eq_false_iff mask _).mp (getLsbD_tones (effMask Config.printed mask))).1

/-- Every run is a block of the low free bits. -/
theorem exists_block_of_mem {base mask : Port} {rs : List Run} (h : IsRunList (portMatches Config.printed base mask) rs)
    {r : Run} (hr : r ∈ rs) : ∃ x : Port, x &&& lowOnes (tones (effMask Config.printed mask)) = 0#16 ∧
      r = blockRun (tones (effMask Config.printed mask)) x := by
  rw [runListIsUnique _ _ _ h (closedFormIsTheRunList Config.printed base mask), closedRuns_eq] at hr
  obtain ⟨s, hs, rfl⟩ := List.mem_map.mp hr
  exact ⟨_, placed_and_lowOnes (effMask_and_canonicalBase Config.printed base mask) hs, rfl⟩

theorem length_of_isRunList {base mask : Port} {rs : List Run}
    (h : IsRunList (portMatches Config.printed base mask) rs) :
    rs.length = 2 ^ popcount (freeAbove (effMask Config.printed mask)) := by
  rw [runListIsUnique _ _ _ h (closedFormIsTheRunList Config.printed base mask), closedRuns_eq, List.length_map,
    length_subwords]

/-- Settles O27: the run list is the closed form, a block for each word within the free bits above the low block. -/
theorem runListCounts : Obligations.RunListCounts := by
  intro base mask rs h
  have split := popcount_eq_tones_add (effMask Config.printed mask)
  have bound := popcount_freeAbove_le (two_le_tones mask)
  rw [length_of_isRunList h]
  refine ⟨by rw [split, Nat.add_sub_cancel_left], Nat.one_le_two_pow, ?most, fun r hr => ?size⟩
  case most => exact Nat.pow_le_pow_right (by decide) bound
  case size =>
    obtain ⟨x, aligned, rfl⟩ := exists_block_of_mem h hr
    exact toNat_or_lowOnes (tones_le _) aligned

/-! ### The ends of the run list -/

/-- The first run starts at the least match. -/
theorem head_startPort_of_least {f : Port → Bool} {rs : List Run} {m : Port} (h : IsRunList f rs) (hm : f m = true)
    (least : ∀ p, f p = true → m ≤ p) : rs.head?.map Run.startPort = some m := by
  cases rs with
  | nil => simp [(isRunList_nil_iff f).mp h m] at hm
  | cons r rs =>
    have hit : f r.startPort = true :=
      (match_iff_of_isRunList_cons h _).mpr (.inl ⟨BitVec.le_refl _, h.ordered r List.mem_cons_self⟩)
    exact congrArg some (BitVec.le_antisymm (BitVec.le_def.mpr (startPort_le_of_match h hm)) (least _ hit))

/-- Every match lies at or below the end of the last run. -/
theorem le_endPort_of_match {f : Port → Bool} {init : List Run} {r : Run} (h : IsRunList f (init ++ [r])) {p : Port}
    (hp : f p = true) : p ≤ r.endPort := by
  obtain ⟨q, hq, -, hpq⟩ := (h.exhaustive p).mpr hp
  rcases List.mem_append.mp hq with hinit | hlast
  · obtain ⟨-, -, hsep⟩ := List.pairwise_append.mp h.separated
    have gap := hsep q hinit r (List.mem_singleton_self r)
    have ordered := BitVec.le_def.mp (h.ordered r (by simp))
    rw [BitVec.le_def] at hpq ⊢
    omega
  · rwa [← List.mem_singleton.mp hlast]

/-- The last run ends at the greatest match. -/
theorem getLast_endPort_of_greatest {f : Port → Bool} {rs : List Run} {m : Port} (h : IsRunList f rs) (hm : f m = true)
    (greatest : ∀ p, f p = true → p ≤ m) : rs.getLast?.map Run.endPort = some m := by
  rcases List.eq_nil_or_concat' rs with rfl | ⟨init, r, rfl⟩
  · simp [(isRunList_nil_iff f).mp h m] at hm
  · have hr : r ∈ init ++ [r] := by simp
    have hit : f r.endPort = true := (h.exhaustive _).mp ⟨r, hr, h.ordered r hr, BitVec.le_refl _⟩
    rw [List.getLast?_concat]
    exact congrArg some (BitVec.le_antisymm (greatest _ hit) (le_endPort_of_match h hm))

section Ends

variable (k : Config) (base mask : Port)

theorem portMatches_canonicalBase : portMatches k base mask (canonicalBase k base mask) = true := by
  rw [portMatches_comm, canonicalBase, portMatches_clearedBase]
  exact beq_self_eq_true _

theorem portMatches_filled : portMatches k base mask (base ||| effMask k mask) = true := by
  rw [portMatches_comm, portMatches_filledBase]
  exact beq_self_eq_true _

variable {k base mask} {p : Port} (hp : portMatches k base mask p = true)

include hp

theorem canonicalBase_le_of_match : canonicalBase k base mask ≤ p := by
  rw [← (portMatches_iff_canonicalBase_eq k base mask p).mp hp, canonicalBase, BitVec.le_def, BitVec.toNat_and]
  exact Nat.and_le_left

theorem match_le_filled : p ≤ base ||| effMask k mask := by
  rw [← beq_iff_eq.mp hp, BitVec.le_def, BitVec.toNat_or]
  exact Nat.left_le_or

end Ends

/-- Settles O28: a run is a block of at least four; the identity is the least match, the filled base the greatest. -/
theorem runsAreWholeGroupsOfFour : Obligations.RunsAreWholeGroupsOfFour := by
  intro base mask rs h
  refine ⟨fun r hr => ?_,
    head_startPort_of_least h (portMatches_canonicalBase _ base mask) fun _ => canonicalBase_le_of_match,
    getLast_endPort_of_greatest h (portMatches_filled _ base mask) fun _ => match_le_filled⟩
  obtain ⟨x, aligned, rfl⟩ := exists_block_of_mem h hr
  exact block_low_field (tones_le _) (two_le_tones mask) aligned

end Sys2Proof.Proofs
